-- ==== Sys2Proof/Word.lean ====
section
/-! DEFINITION. The word types of NES-PPU-CORE (spec/00_scope.md R7): every value is an unsigned number of a stated width. -/

namespace Sys2Proof

/-- A data byte: every port moves one byte (R70). -/
abbrev Byte := BitVec 8

/-- A 16-bit address of the CPU address space (R60). -/
abbrev Addr := BitVec 16

/-- A 15-bit VRAM address register value, `S.v` or `S.t` (R34, R35). -/
abbrev VAddr := BitVec 15

/-- A 14-bit address of the PPU address space (R60, R242). -/
abbrev PAddr := BitVec 14

end Sys2Proof
end

