-- ==== Sys2Proof/Config.lean ====
section
/-! DEFINITION. What is fixed for the whole run (R6, R382 `Config`) and the draws of R10. A parameter or a draw the spec
leaves open is an opaque constant: no proof can see its value, so a claim holds whatever it is. -/

namespace Sys2Proof

/-- One framebuffer colour, red, green and blue (R42). -/
structure Rgb where
  red   : Byte
  green : Byte
  blue  : Byte
deriving DecidableEq, Repr, Inhabited

namespace Config

/-- `SUPPORTED_MAPPERS` (R6, R148, decision D38): NROM only. -/
def supportedMappers : List Byte := [0x00]

/-- `MASTER_PALETTE` (R6, R281, decision D20): a total function from a 6-bit colour index; the source gives no table. -/
opaque masterPalette : BitVec 6 → Rgb

/-- `INPUT_PRESENT` (R6, R180, R181): whether the controller collaborator is present. -/
opaque inputPresent : Bool

/-- The draw `apuStatus` of R179: the byte the APU answers to the read with this draw index. -/
opaque apuStatus : Nat → Byte

/-- The draw `joy1` of R180. -/
opaque joy1 : Nat → Byte

/-- The draw `joy2` of R181. -/
opaque joy2 : Nat → Byte

/-- `POWERON_RAM` (R38, R50, R360): the byte at an index of internal RAM in the power-on draw with this index. -/
opaque powerOnRam : Nat → Nat → Byte

/-- `POWERON_NT` (R39, R50). -/
opaque powerOnNt : Nat → Nat → Byte

/-- `POWERON_PAL` (R40, R50). -/
opaque powerOnPal : Nat → Nat → Byte

/-- `POWERON_OAM` (R41, R50). -/
opaque powerOnOam : Nat → Nat → Byte

end Config
end Sys2Proof
end

