-- ==== Sys2Proof/Syntax.lean ====
section
/-! DEFINITION. The operations of NES-PPU-CORE: one constructor of Instr per row of spec/opcode_table.json, in file order. -/

namespace Sys2Proof

/-- Device origin of a bus transaction (R14, R341). -/
inductive Origin where
  | cpu
  | ppu
deriving DecidableEq, Repr

/-- The origin, the logical address a transaction was issued with (`a`) and the translated address that selected its row
(`a'`): the arguments every bus rule takes (41_bus.md, "In every rule, ..."). -/
structure Access where
  origin   : Origin
  logical  : Addr
  physical : Addr
deriving DecidableEq, Repr

/-- The three key formats (R100): a BUS transaction, a VRAM data-port access, a HOST operation. -/
inductive Format where
  | bus
  | vram
  | host
deriving DecidableEq, Repr

/-- The operations (R120). A bus read carries its access, a bus write its access and data byte, a data-port access its 14-bit
PPU address, INSERT its image. The latch bit L is no operand: it selects between constructors (R114). -/
inductive Instr where
  /-- RD.RAM, R172: internal RAM read. -/
  | rdRam (x : Access)
  /-- WR.RAM, R173: internal RAM write. -/
  | wrRam (x : Access) (d : Byte)
  /-- PRD.CHR, R174: PPU-origin pattern read. -/
  | prdChr (x : Access)
  /-- PWR.CHR, R175: PPU-origin write below `0x2000`. -/
  | pwrChr (x : Access) (d : Byte)
  /-- RD.CTRL, R200: read of index 0. -/
  | rdCtrl (x : Access)
  /-- RD.MASK, R201: read of index 1. -/
  | rdMask (x : Access)
  /-- RD.STATUS, R202: status read. -/
  | rdStatus (x : Access)
  /-- RD.OAMADDR, R203: read of index 3. -/
  | rdOamaddr (x : Access)
  /-- RD.OAMDATA, R204: OAM data read. -/
  | rdOamdata (x : Access)
  /-- RD.SCROLL, R205: read of index 5. -/
  | rdScroll (x : Access)
  /-- RD.ADDR, R206: read of index 6. -/
  | rdAddr (x : Access)
  /-- RD.DATA, R207: data-port read. -/
  | rdData (x : Access)
  /-- WR.CTRL, R210: control write. -/
  | wrCtrl (x : Access) (d : Byte)
  /-- WR.MASK, R211: mask write. -/
  | wrMask (x : Access) (d : Byte)
  /-- WR.STATUS, R212: write to the read-only status register. -/
  | wrStatus (x : Access) (d : Byte)
  /-- WR.OAMADDR, R213: OAM address write. -/
  | wrOamaddr (x : Access) (d : Byte)
  /-- WR.OAMDATA, R214: OAM data write. -/
  | wrOamdata (x : Access) (d : Byte)
  /-- WR.SCROLL.X, R215: scroll write, first form (latch 0). -/
  | wrScrollX (x : Access) (d : Byte)
  /-- WR.SCROLL.Y, R216: scroll write, second form (latch 1). -/
  | wrScrollY (x : Access) (d : Byte)
  /-- WR.ADDR.HI, R217: address write, first form (latch 0). -/
  | wrAddrHi (x : Access) (d : Byte)
  /-- WR.ADDR.LO, R218: address write, second form (latch 1). -/
  | wrAddrLo (x : Access) (d : Byte)
  /-- WR.DATA, R219: data-port write. -/
  | wrData (x : Access) (d : Byte)
  /-- WR.OAMDMA, R178: OAM-DMA. -/
  | wrOamdma (x : Access) (d : Byte)
  /-- RD.APUSTAT, R179: APU status read. -/
  | rdApustat (x : Access)
  /-- WR.APU, R182: APU write. -/
  | wrApu (x : Access) (d : Byte)
  /-- RD.JOY1, R180: controller 1 read. -/
  | rdJoy1 (x : Access)
  /-- WR.JOY1, R183: controller 1 write. -/
  | wrJoy1 (x : Access) (d : Byte)
  /-- RD.JOY2, R181: controller 2 read. -/
  | rdJoy2 (x : Access)
  /-- WR.JOY2, R188: controller 2 write. -/
  | wrJoy2 (x : Access) (d : Byte)
  /-- RD.OPEN, R184: open-bus read. -/
  | rdOpen (x : Access)
  /-- WR.OPEN, R185: open-bus write. -/
  | wrOpen (x : Access) (d : Byte)
  /-- RD.CARTLO, R176: low cartridge read. -/
  | rdCartlo (x : Access)
  /-- WR.CARTLO, R186: low cartridge write. -/
  | wrCartlo (x : Access) (d : Byte)
  /-- RD.PRG, R177: PRG read. -/
  | rdPrg (x : Access)
  /-- WR.PRG, R187: PRG write. -/
  | wrPrg (x : Access) (d : Byte)
  /-- VRD.PAL, R256: palette read. -/
  | vrdPal (p : PAddr)
  /-- VWR.PAL, R257: palette write. -/
  | vwrPal (p : PAddr) (d : Byte)
  /-- VRD.NTM, R252: nametable mirror read. -/
  | vrdNtm (p : PAddr)
  /-- VWR.NTM, R258: nametable mirror write. -/
  | vwrNtm (p : PAddr) (d : Byte)
  /-- VRD.NT, R251: nametable read. -/
  | vrdNt (p : PAddr)
  /-- VWR.NT, R253: nametable write. -/
  | vwrNt (p : PAddr) (d : Byte)
  /-- VRD.PAT, R247: pattern read. -/
  | vrdPat (p : PAddr)
  /-- VWR.PAT, R248: pattern write. -/
  | vwrPat (p : PAddr) (d : Byte)
  /-- RESET, R360: host operation 0. -/
  | reset
  /-- INSERT, R140: host operation 1, with its cartridge image (R105). -/
  | insert (image : List Byte)
  /-- RENDER, R270: host operation 2. -/
  | render
  /-- ACKVIEW, R299: host operation 3. -/
  | ackview
deriving DecidableEq, Repr

end Sys2Proof
end

