-- ==== Sys2Proof/WellFormed.lean ====
section
/-! DEFINITION. Which terms of Instr are operations the decoder can yield: the windows and exact addresses of R120, read as
ranges of the translated address, and the relation a logical and a translated address can have under NROM (R151). -/

namespace Sys2Proof

/-- The logical address is the translated one, or NROM's one-bank mirror subtracted `0x4000` from it (R151). -/
def Access.consistent (x : Access) : Bool :=
  decide (x.logical = x.physical) ||
    (decide (x.origin = .cpu) && decide (0x8000 ≤ x.physical.toNat) && decide (x.physical.toNat < 0xC000) &&
      decide (x.logical = x.physical + 0x4000))

/-- A consistent access whose translated address lies in `[lo, hi)`. -/
def Access.within (x : Access) (lo hi : Nat) : Bool :=
  x.consistent && decide (lo ≤ x.physical.toNat) && decide (x.physical.toNat < hi)

/-- An access below `0x2000`, where the origin selects the device (R61). -/
def Access.low (x : Access) (o : Origin) : Bool :=
  x.within 0x0000 0x2000 && decide (x.origin = o)

/-- An access in the PPU register window with register index `n` (R64). -/
def Access.port (x : Access) (n : Nat) : Bool :=
  x.within 0x2000 0x4000 && decide (x.physical.toNat % 8 = n)

/-- An access at one exact address (R65, R66). -/
def Access.exactly (x : Access) (a : Nat) : Bool :=
  x.within a (a + 1)

/-- A PPU address in `[lo, hi)` (R68). -/
def PAddr.within (p : PAddr) (lo hi : Nat) : Bool :=
  decide (lo ≤ p.toNat) && decide (p.toNat < hi)

/-- The operand checks of each operation (R120). -/
def Instr.wellFormed : Instr → Bool
  | .rdRam x => x.low .cpu
  | .wrRam x _ => x.low .cpu
  | .prdChr x => x.low .ppu
  | .pwrChr x _ => x.low .ppu
  | .rdCtrl x => x.port 0
  | .rdMask x => x.port 1
  | .rdStatus x => x.port 2
  | .rdOamaddr x => x.port 3
  | .rdOamdata x => x.port 4
  | .rdScroll x => x.port 5
  | .rdAddr x => x.port 6
  | .rdData x => x.port 7
  | .wrCtrl x _ => x.port 0
  | .wrMask x _ => x.port 1
  | .wrStatus x _ => x.port 2
  | .wrOamaddr x _ => x.port 3
  | .wrOamdata x _ => x.port 4
  | .wrScrollX x _ => x.port 5
  | .wrScrollY x _ => x.port 5
  | .wrAddrHi x _ => x.port 6
  | .wrAddrLo x _ => x.port 6
  | .wrData x _ => x.port 7
  | .wrOamdma x _ => x.exactly 0x4014
  | .rdApustat x => x.exactly 0x4015
  | .wrApu x _ => x.exactly 0x4015
  | .rdJoy1 x => x.exactly 0x4016
  | .wrJoy1 x _ => x.exactly 0x4016
  | .rdJoy2 x => x.exactly 0x4017
  | .wrJoy2 x _ => x.exactly 0x4017
  | .rdOpen x => x.within 0x4000 0x4015 || x.within 0x4018 0x4020
  | .wrOpen x _ => x.within 0x4000 0x4014 || x.within 0x4018 0x4020
  | .rdCartlo x => x.within 0x4020 0x8000
  | .wrCartlo x _ => x.within 0x4020 0x8000
  | .rdPrg x => x.within 0x8000 0x10000
  | .wrPrg x _ => x.within 0x8000 0x10000
  | .vrdPal p => PAddr.within p 0x3F00 0x4000
  | .vwrPal p _ => PAddr.within p 0x3F00 0x4000
  | .vrdNtm p => PAddr.within p 0x3000 0x3F00
  | .vwrNtm p _ => PAddr.within p 0x3000 0x3F00
  | .vrdNt p => PAddr.within p 0x2000 0x3000
  | .vwrNt p _ => PAddr.within p 0x2000 0x3000
  | .vrdPat p => PAddr.within p 0x0000 0x2000
  | .vwrPat p _ => PAddr.within p 0x0000 0x2000
  | .reset => true
  | .insert _ => true
  | .render => true
  | .ackview => true

end Sys2Proof
end

