-- ==== Sys2Proof/Decode.lean ====
section
/-! DEFINITION. Decoding and encoding (spec/30_encoding.md): the decode keys of R101, R103 and R104, the first-match table of
spec/opcode_table.json, and the byte layout the model stores a key in (notes/assumptions/2.md). -/

namespace Sys2Proof

/-- Why a key or a packet of bytes is no operation. -/
inductive Reject where
  /-- The packet does not have its format's length. -/
  | wrongLength (f : Format) (n : Nat)
  /-- A bit above the format's key width (27, 23 or 4 bits) is set. -/
  | keyTooWide (f : Format)
  /-- A reserved host operation code, 4 to 15 (R118). -/
  | reservedHostOp (op : BitVec 4)
  /-- No row matches; R102 and R103 say that this never happens. -/
  | noRow (f : Format)
deriving DecidableEq, Repr

/-- A decode key with the operands beyond it: the logical address of a bus transaction, the image of a host operation (R105). -/
inductive Key where
  | bus (k : BitVec 27) (logical : Addr)
  | vram (k : BitVec 23)
  | host (op : BitVec 4) (image : List Byte)
deriving DecidableEq, Repr

/-- The answer of the decoder. -/
inductive Decoded where
  | instr (i : Instr)
  | rejected (r : Reject)
deriving DecidableEq, Repr

/-! Keys. -/

/-- Key bit 24, O: 0 for CPU, 1 for PPU (R101). -/
def Origin.bit : Origin → BitVec 1
  | .cpu => 0#1
  | .ppu => 1#1

/-- The origin key bit 24 names. -/
def Origin.ofBit (b : Bool) : Origin := if b then .ppu else .cpu

/-- The 27-bit BUS key `{L, W, O, A, D}` (R101). -/
def busKey (l w : Bool) (o : Origin) (a : Addr) (d : Byte) : BitVec 27 :=
  BitVec.ofBool l ++ BitVec.ofBool w ++ o.bit ++ a ++ d

/-- The 23-bit VRAM key `{W, P, D}` (R103). -/
def vramKey (w : Bool) (p : PAddr) (d : Byte) : BitVec 23 :=
  BitVec.ofBool w ++ p ++ d

/-- Field L of a BUS key. -/
def busKeyL (k : BitVec 27) : Bool := k.getLsbD 26
/-- Field W of a BUS key. -/
def busKeyW (k : BitVec 27) : Bool := k.getLsbD 25
/-- Field O of a BUS key. -/
def busKeyO (k : BitVec 27) : Origin := Origin.ofBit (k.getLsbD 24)
/-- Field A of a BUS key. -/
def busKeyA (k : BitVec 27) : Addr := k.extractLsb' 8 16
/-- Field D of a BUS key. -/
def busKeyD (k : BitVec 27) : Byte := k.extractLsb' 0 8
/-- Field W of a VRAM key. -/
def vramKeyW (k : BitVec 23) : Bool := k.getLsbD 22
/-- Field P of a VRAM key. -/
def vramKeyP (k : BitVec 23) : PAddr := k.extractLsb' 8 14
/-- Field D of a VRAM key. -/
def vramKeyD (k : BitVec 23) : Byte := k.extractLsb' 0 8

/-! The opcode table (R102, R120). -/

/-- A BUS row: it matches a key when `key & mask = value`, and builds its operation from the access and the data byte. -/
structure BusRow where
  value : BitVec 27
  mask  : BitVec 27
  build : Access → Byte → Instr

/-- A VRAM row. -/
structure VramRow where
  value : BitVec 23
  mask  : BitVec 23
  build : PAddr → Byte → Instr

/-- RAM and CHR rows. -/
def busRowsLow : List BusRow :=
  [ ⟨0x0000000#27, 0x3E00000#27, fun x _ => .rdRam x⟩,
    ⟨0x2000000#27, 0x3E00000#27, fun x d => .wrRam x d⟩,
    ⟨0x1000000#27, 0x3E00000#27, fun x _ => .prdChr x⟩,
    ⟨0x3000000#27, 0x3E00000#27, fun x d => .pwrChr x d⟩ ]

/-- PPU register read rows. -/
def busRowsPortRead : List BusRow :=
  [ ⟨0x0200000#27, 0x2E00700#27, fun x _ => .rdCtrl x⟩,
    ⟨0x0200100#27, 0x2E00700#27, fun x _ => .rdMask x⟩,
    ⟨0x0200200#27, 0x2E00700#27, fun x _ => .rdStatus x⟩,
    ⟨0x0200300#27, 0x2E00700#27, fun x _ => .rdOamaddr x⟩,
    ⟨0x0200400#27, 0x2E00700#27, fun x _ => .rdOamdata x⟩,
    ⟨0x0200500#27, 0x2E00700#27, fun x _ => .rdScroll x⟩,
    ⟨0x0200600#27, 0x2E00700#27, fun x _ => .rdAddr x⟩,
    ⟨0x0200700#27, 0x2E00700#27, fun x _ => .rdData x⟩ ]

/-- PPU register write rows. -/
def busRowsPortWrite : List BusRow :=
  [ ⟨0x2200000#27, 0x2E00700#27, fun x d => .wrCtrl x d⟩,
    ⟨0x2200100#27, 0x2E00700#27, fun x d => .wrMask x d⟩,
    ⟨0x2200200#27, 0x2E00700#27, fun x d => .wrStatus x d⟩,
    ⟨0x2200300#27, 0x2E00700#27, fun x d => .wrOamaddr x d⟩,
    ⟨0x2200400#27, 0x2E00700#27, fun x d => .wrOamdata x d⟩,
    ⟨0x2200500#27, 0x6E00700#27, fun x d => .wrScrollX x d⟩,
    ⟨0x6200500#27, 0x6E00700#27, fun x d => .wrScrollY x d⟩,
    ⟨0x2200600#27, 0x6E00700#27, fun x d => .wrAddrHi x d⟩,
    ⟨0x6200600#27, 0x6E00700#27, fun x d => .wrAddrLo x d⟩,
    ⟨0x2200700#27, 0x2E00700#27, fun x d => .wrData x d⟩ ]

/-- The exact-address IO rows, `0x4014` to `0x4017`. -/
def busRowsIo : List BusRow :=
  [ ⟨0x2401400#27, 0x2FFFF00#27, fun x d => .wrOamdma x d⟩,
    ⟨0x0401500#27, 0x2FFFF00#27, fun x _ => .rdApustat x⟩,
    ⟨0x2401500#27, 0x2FFFF00#27, fun x d => .wrApu x d⟩,
    ⟨0x0401600#27, 0x2FFFF00#27, fun x _ => .rdJoy1 x⟩,
    ⟨0x2401600#27, 0x2FFFF00#27, fun x d => .wrJoy1 x d⟩,
    ⟨0x0401700#27, 0x2FFFF00#27, fun x _ => .rdJoy2 x⟩,
    ⟨0x2401700#27, 0x2FFFF00#27, fun x d => .wrJoy2 x d⟩ ]

/-- Open-bus, low cartridge and PRG rows. -/
def busRowsRest : List BusRow :=
  [ ⟨0x0400000#27, 0x2FFE000#27, fun x _ => .rdOpen x⟩,
    ⟨0x2400000#27, 0x2FFE000#27, fun x d => .wrOpen x d⟩,
    ⟨0x0400000#27, 0x2C00000#27, fun x _ => .rdCartlo x⟩,
    ⟨0x2400000#27, 0x2C00000#27, fun x d => .wrCartlo x d⟩,
    ⟨0x0800000#27, 0x2800000#27, fun x _ => .rdPrg x⟩,
    ⟨0x2800000#27, 0x2800000#27, fun x d => .wrPrg x d⟩ ]

/-- The BUS rows in file order (R102). -/
def busTable : List BusRow :=
  busRowsLow ++ busRowsPortRead ++ busRowsPortWrite ++ busRowsIo ++ busRowsRest

/-- The VRAM rows in file order: palette, nametable mirror, nametable, pattern (R103). -/
def vramTable : List VramRow :=
  [ ⟨0x3F0000#23, 0x7F0000#23, fun p _ => .vrdPal p⟩,
    ⟨0x7F0000#23, 0x7F0000#23, fun p d => .vwrPal p d⟩,
    ⟨0x300000#23, 0x700000#23, fun p _ => .vrdNtm p⟩,
    ⟨0x700000#23, 0x700000#23, fun p d => .vwrNtm p d⟩,
    ⟨0x200000#23, 0x700000#23, fun p _ => .vrdNt p⟩,
    ⟨0x600000#23, 0x700000#23, fun p d => .vwrNt p d⟩,
    ⟨0x000000#23, 0x600000#23, fun p _ => .vrdPat p⟩,
    ⟨0x400000#23, 0x600000#23, fun p d => .vwrPat p d⟩ ]

/-- The first BUS row whose `key & mask = value` (R102), applied to the transaction's access and data byte. -/
def decodeBusKey (k : BitVec 27) (logical : Addr) : Option Instr :=
  (busTable.find? fun row => k &&& row.mask == row.value).map fun row =>
    row.build { origin := busKeyO k, logical := logical, physical := busKeyA k } (busKeyD k)

/-- The first VRAM row that matches (R103, R240, R241). -/
def decodeVramKey (k : BitVec 23) : Option Instr :=
  (vramTable.find? fun row => k &&& row.mask == row.value).map fun row =>
    row.build (vramKeyP k) (vramKeyD k)

/-- The host operation of a code, if it is not reserved (R104, R118). -/
def decodeHostOp (op : BitVec 4) (image : List Byte) : Option Instr :=
  if op = 0x0#4 then some .reset
  else if op = 0x1#4 then some (.insert image)
  else if op = 0x2#4 then some .render
  else if op = 0x3#4 then some .ackview
  else none

/-- Decoding of a key in its format. -/
def decodeKey : Key → Decoded
  | .bus k logical =>
    match decodeBusKey k logical with
    | some i => .instr i
    | none => .rejected (.noRow .bus)
  | .vram k =>
    match decodeVramKey k with
    | some i => .instr i
    | none => .rejected (.noRow .vram)
  | .host op image =>
    match decodeHostOp op image with
    | some i => .instr i
    | none => .rejected (.reservedHostOp op)

/-! Bytes. A BUS packet is the key in four bytes, the first the least significant, and the difference of the logical and the
translated address in two; a VRAM packet is the key in three bytes; a HOST packet is the code in one byte, then the image. -/

/-- Reads a packet of a format as a key. -/
def parsePacket : Format → List Byte → Except Reject Key
  | .bus, [b0, b1, b2, b3, d0, d1] =>
    if (b3.extractLsb' 3 5).toNat = 0 then
      let k : BitVec 27 := b3.extractLsb' 0 3 ++ b2 ++ b1 ++ b0
      .ok (.bus k (busKeyA k + (d1 ++ d0)))
    else .error (.keyTooWide .bus)
  | .vram, [b0, b1, b2] =>
    if (b2.extractLsb' 7 1).toNat = 0 then .ok (.vram (b2.extractLsb' 0 7 ++ b1 ++ b0))
    else .error (.keyTooWide .vram)
  | .host, b :: image =>
    if (b.extractLsb' 4 4).toNat = 0 then .ok (.host (b.extractLsb' 0 4) image)
    else .error (.keyTooWide .host)
  | f, bs => .error (.wrongLength f bs.length)

/-- The decoder on the bytes of a packet: total, rejecting by name. -/
def decode (f : Format) (bytes : List Byte) : Decoded :=
  match parsePacket f bytes with
  | .ok k => decodeKey k
  | .error r => .rejected r

/-! The encoder. -/

/-- The key of a bus read; D is 0 (R101). -/
def readKey (x : Access) : Key := .bus (busKey false false x.origin x.physical 0) x.logical

/-- The key of a bus write with latch bit `l`. -/
def writeKey (l : Bool) (x : Access) (d : Byte) : Key := .bus (busKey l true x.origin x.physical d) x.logical

/-- The key of each operation: L is 0 but for the second forms of the scroll and address ports (R114). -/
def encodeKey : Instr → Key
  | .rdRam x => readKey x
  | .wrRam x d => writeKey false x d
  | .prdChr x => readKey x
  | .pwrChr x d => writeKey false x d
  | .rdCtrl x => readKey x
  | .rdMask x => readKey x
  | .rdStatus x => readKey x
  | .rdOamaddr x => readKey x
  | .rdOamdata x => readKey x
  | .rdScroll x => readKey x
  | .rdAddr x => readKey x
  | .rdData x => readKey x
  | .wrCtrl x d => writeKey false x d
  | .wrMask x d => writeKey false x d
  | .wrStatus x d => writeKey false x d
  | .wrOamaddr x d => writeKey false x d
  | .wrOamdata x d => writeKey false x d
  | .wrScrollX x d => writeKey false x d
  | .wrScrollY x d => writeKey true x d
  | .wrAddrHi x d => writeKey false x d
  | .wrAddrLo x d => writeKey true x d
  | .wrData x d => writeKey false x d
  | .wrOamdma x d => writeKey false x d
  | .rdApustat x => readKey x
  | .wrApu x d => writeKey false x d
  | .rdJoy1 x => readKey x
  | .wrJoy1 x d => writeKey false x d
  | .rdJoy2 x => readKey x
  | .wrJoy2 x d => writeKey false x d
  | .rdOpen x => readKey x
  | .wrOpen x d => writeKey false x d
  | .rdCartlo x => readKey x
  | .wrCartlo x d => writeKey false x d
  | .rdPrg x => readKey x
  | .wrPrg x d => writeKey false x d
  | .vrdPal p => .vram (vramKey false p 0)
  | .vwrPal p d => .vram (vramKey true p d)
  | .vrdNtm p => .vram (vramKey false p 0)
  | .vwrNtm p d => .vram (vramKey true p d)
  | .vrdNt p => .vram (vramKey false p 0)
  | .vwrNt p d => .vram (vramKey true p d)
  | .vrdPat p => .vram (vramKey false p 0)
  | .vwrPat p d => .vram (vramKey true p d)
  | .reset => .host 0x0#4 []
  | .insert image => .host 0x1#4 image
  | .render => .host 0x2#4 []
  | .ackview => .host 0x3#4 []

/-- The format of a key. -/
def Key.format : Key → Format
  | .bus _ _ => .bus
  | .vram _ => .vram
  | .host _ _ => .host

/-- The bytes of a key's packet. -/
def Key.bytes : Key → List Byte
  | .bus k logical =>
    let disp := logical - busKeyA k
    [k.extractLsb' 0 8, k.extractLsb' 8 8, k.extractLsb' 16 8, 0#5 ++ k.extractLsb' 24 3,
      disp.extractLsb' 0 8, disp.extractLsb' 8 8]
  | .vram k => [k.extractLsb' 0 8, k.extractLsb' 8 8, 0#1 ++ k.extractLsb' 16 7]
  | .host op image => (0#4 ++ op) :: image

/-- The format and bytes of an operation. -/
def encode (i : Instr) : Format × List Byte :=
  ((encodeKey i).format, (encodeKey i).bytes)

/-! The host's reading of a table word. -/

/-- Byte `n` of a word, byte 0 the least significant. -/
def wordByte (w n : Nat) : Byte := BitVec.ofNat 8 (w / 256 ^ n)

/-- The format and packet of a table word of `nbits` bits: rows of 4 bits (one byte) are HOST, of 23 (three bytes) VRAM, of 27
(four bytes) BUS. The operands beyond the key, the address difference and the image, are zero and empty. -/
def tablePacket (nbits w : Nat) : Format × List Byte :=
  if nbits ≤ 8 then (.host, [wordByte w 0])
  else if nbits ≤ 24 then (.vram, [wordByte w 0, wordByte w 1, wordByte w 2])
  else (.bus, [wordByte w 0, wordByte w 1, wordByte w 2, wordByte w 3, 0, 0])

/-- The operation the decoder reads from a table word. -/
def decodeTableWord (nbits w : Nat) : Option Instr :=
  match decode (tablePacket nbits w).1 (tablePacket nbits w).2 with
  | .instr i => some i
  | .rejected _ => none

end Sys2Proof
end

