-- ==== Sys2Proof/Machine/State.lean ====
section
/-! DEFINITION. The state of NES-PPU-CORE (spec/10_state.md R20 to R51), the cartridge record, the output events, the pending
operations, and the reasons a step can stop. -/

namespace Sys2Proof.Machine

/-- A byte store by index, in one canonical form: indices strictly rising. An index that is not listed holds the byte of the
store's power-on draw (R50); see notes/assumptions/3.md. -/
abbrev Memory := List Host.Cell

/-- The bytes of the framebuffer, 256 x 240 x 3 (R42). -/
abbrev fbSize : Nat := 184320

/-- The framebuffer, `S.fb` (R42): byte `3*(256*y + x) + c` is channel c of pixel (x, y). -/
abbrev Framebuffer := Vector Byte fbSize

/-- Nametable arrangement, header byte 6 bit 0 (R14, R146). -/
inductive Arrangement where
  | horizontal
  | vertical
deriving DecidableEq, Repr

/-- The parsed cartridge, immutable (R43). -/
structure NesRom where
  header               : List Byte
  trainer              : Option (List Byte)
  prg                  : List Byte
  chr                  : List Byte
  prgBankCount16K      : Byte
  chrBankCount8K       : Byte
  mapperId             : Byte
  nametableArrangement : Arrangement
deriving DecidableEq, Repr

/-- Direction of the access a diagnostic reports (R45). -/
inductive Dir where
  | r
  | w
deriving DecidableEq, Repr

/-- Non-fatal diagnostics (R321 to R324). -/
inductive DiagKind where
  | unmappedAccess
  | illegalPpuWrite
  | readOnlyRegionWrite
deriving DecidableEq, Repr

/-- Format errors of INSERT (R325 to R328). -/
inductive FormatErrKind where
  | badSignature
  | tooShort
  | unsupportedMapper
deriving DecidableEq, Repr

/-- An output event (R45). `info` of a format error is the mapper id for `unsupportedMapper` and none otherwise (R325). -/
inductive Event where
  | diag (kind : DiagKind) (dir : Dir) (origin : Origin) (logical physical : Addr) (data : Byte)
  | formatErr (kind : FormatErrKind) (info : Option Byte)
  | nmiRequest
  | framePresented
  | apuWrite (a : Addr) (d : Byte)
  | inputWrite (a : Addr) (d : Byte)
deriving DecidableEq, Repr

/-- An operation as it is given to the block, all of R350's inputs: a bus transaction with its logical address, a host operation with
its image (R104, R105). A data-port access is a sub-operation of RD.DATA and WR.DATA and is never given (R85, R100). -/
inductive Request where
  | read (o : Origin) (a : Addr)
  | write (o : Origin) (a : Addr) (d : Byte)
  | host (op : BitVec 4) (image : List Byte)
deriving DecidableEq, Repr

/-- The state. The fields down to `trace` are `S` (R21); the last four are the model's own (notes/assumptions/1.md, 4.md). -/
structure State where
  /-- `S.ctrl`, R22. -/
  ctrl     : Byte
  /-- `S.mask`, R30. -/
  mask     : Byte
  /-- `S.vblank`, R31. -/
  vblank   : Bool
  /-- `S.oamAddr`, R32. -/
  oamAddr  : Byte
  /-- `S.scrollX`, R33. -/
  scrollX  : Byte
  /-- `S.scrollY`, R33. -/
  scrollY  : Byte
  /-- `S.v`, the current VRAM address, R34. -/
  v        : VAddr
  /-- `S.t`, the temporary VRAM address, R35. -/
  t        : VAddr
  /-- `S.w`, the write latch, R36: false is 0, the first-write state. -/
  w        : Bool
  /-- `S.ntDirty`, R37. -/
  ntDirty  : Bool
  /-- `S.ram`, 2048 bytes, R38. -/
  ram      : Memory
  /-- `S.nt`, 2048 bytes, R39. -/
  nt       : Memory
  /-- `S.pal`, 32 bytes, R40. -/
  pal      : Memory
  /-- `S.oam`, 256 bytes, R41. -/
  oam      : Memory
  /-- `S.fb`, R42. -/
  fb       : Framebuffer
  /-- `S.cart`, R43. -/
  cart     : Option NesRom
  /-- `S.trace`, R45, oldest event first. -/
  trace    : List Event
  /-- The index of the power-on draw the unlisted bytes of the four memories hold (R50). -/
  powerOn  : Nat
  /-- The index of the next draw (R10). -/
  draws    : Nat
  /-- The bytes read operations have answered, oldest first (R170, R240). -/
  replies  : List Byte
  /-- The operations given and not yet performed, next first (R20, R381). -/
  requests : List Request
deriving DecidableEq, Repr

/-- No operation of the block faults (R340: "Faults: none"), so this type has no constructor. -/
inductive Fault where
deriving DecidableEq, Repr

/-- The cases the model refuses (R11). -/
inductive Refusal where
  /-- Raised by an arm of exec whose instruction has no meaning yet. Safe: the run stops. -/
  | notModelled (mnemonic : String)
  /-- Raised by every operation but RESET and INSERT while no cartridge is inserted (R363, R170, R171). Safe: the run stops,
  as the spec says. -/
  | noCartridge
  /-- Raised by step when the operation's key is none of the table's: a reserved host code (R118). Safe: the run stops, as the
  spec says. -/
  | undecodable (reason : Reject)
  /-- Raised by step when the decoded operation is not well formed; no request leads here. Safe: the run stops. -/
  | illFormed
  /-- Raised by step when no operation is given: the run has ended (R381). Safe: there is no operation to perform. -/
  | noRequest
deriving DecidableEq, Repr

/-- The power-on state (R361): every register and flag 0, the framebuffer all `0x00` (R50), no cartridge, an empty trace; the
four memories hold the first power-on draw. -/
def State.reset : State where
  ctrl     := 0x00
  mask     := 0x00
  vblank   := false
  oamAddr  := 0x00
  scrollX  := 0x00
  scrollY  := 0x00
  v        := 0x0000
  t        := 0x0000
  w        := false
  ntDirty  := false
  ram      := []
  nt       := []
  pal      := []
  oam      := []
  fb       := Vector.replicate fbSize 0x00
  cart     := none
  trace    := []
  powerOn  := 0
  draws    := 1
  replies  := []
  requests := []

end Sys2Proof.Machine
end

