-- ==== Sys2Proof/Machine/Operands.lean ====
section
/-! DEFINITION. Operand assembly: the fields of every data byte the block interprets (R106 to R112). -/

namespace Sys2Proof.Machine

/-! The control byte (R106). Bit 6, master/slave select, has no effect (R28). -/

/-- Field V, vblank-NMI enable (R29). -/
def ctrlNmiEnable (ctrl : Byte) : Bool := ctrl.getLsbD 7

/-- Field H: the sprite height, 8 or 16 pixels (R27). -/
def ctrlSpriteHeight (ctrl : Byte) : Nat := if ctrl.getLsbD 5 then 16 else 8

/-- Field B: the background pattern table, 0 or 1 (R26, R280). -/
def ctrlBgTable (ctrl : Byte) : Nat := (ctrl.getLsbD 4).toNat

/-- Field S: the pattern table of 8 x 8 sprites, 0 or 1 (R25). -/
def ctrlSpriteTable (ctrl : Byte) : Nat := (ctrl.getLsbD 3).toNat

/-- Field I: the data port's increment, 1 or 32 (R24, R245). -/
def ctrlIncrement (ctrl : Byte) : VAddr := if ctrl.getLsbD 2 then 32 else 1

/-! Fields of the temporary VRAM address `{fineY[14:12], nametable[11:10], coarseY[9:5], coarseX[4:0]}` (R35). -/

/-- A control write's `t[11:10] <- d[1:0]` (R210). -/
def foldNametable (t : VAddr) (d : Byte) : VAddr :=
  t.extractLsb' 12 3 ++ d.extractLsb' 0 2 ++ t.extractLsb' 0 10

/-- The scroll port's first form, `t[4:0] <- d[7:3]` (R108, R215). -/
def foldScrollX (t : VAddr) (d : Byte) : VAddr :=
  t.extractLsb' 5 10 ++ d.extractLsb' 3 5

/-- The scroll port's second form, `t[9:5] <- d[7:3]`, `t[14:12] <- d[2:0]` (R108, R216). -/
def foldScrollY (t : VAddr) (d : Byte) : VAddr :=
  d.extractLsb' 0 3 ++ t.extractLsb' 10 2 ++ d.extractLsb' 3 5 ++ t.extractLsb' 0 5

/-- The address port's first form, `t[13:8] <- d[5:0]`, `t[14] <- 0` (R109, R217). -/
def foldAddrHi (t : VAddr) (d : Byte) : VAddr :=
  0#1 ++ d.extractLsb' 0 6 ++ t.extractLsb' 0 8

/-- The address port's second form, `t[7:0] <- d` (R109, R218). -/
def foldAddrLo (t : VAddr) (d : Byte) : VAddr :=
  t.extractLsb' 8 7 ++ d

/-- The base nametable RENDER reads, `t[11:10]` (R276): bit 10 horizontal, bit 11 vertical. -/
def tHorizontal (t : VAddr) : Nat := (t.getLsbD 10).toNat

/-- The vertical bit of the base nametable, `t[11]` (R278). -/
def tVertical (t : VAddr) : Nat := (t.getLsbD 11).toNat

/-! OAM-DMA (R110) and OAM entries (R41, R111). -/

/-- The `i`-th source address of OAM-DMA page `d`: `{d, i}` (R110). -/
def dmaSource (d : Byte) (i : Nat) : Addr := d ++ BitVec.ofNat 8 i

/-- OAM attribute bit 7, vertical flip. -/
def objFlipV (a : Byte) : Bool := a.getLsbD 7

/-- OAM attribute bit 6, horizontal flip. -/
def objFlipH (a : Byte) : Bool := a.getLsbD 6

/-- OAM attribute bits 1:0, the sprite palette. -/
def objPalette (a : Byte) : Nat := (a.extractLsb' 0 2).toNat

/-! Cartridge header (R112). -/

/-- The magic `"NES\x1A"` (R141). -/
def headerMagic : List Byte := [0x4E, 0x45, 0x53, 0x1A]

/-- Header byte 6 bit 2: a trainer is present (R144). -/
def headerHasTrainer (b6 : Byte) : Bool := b6.getLsbD 2

/-- Header byte 6 bit 0: 0 Horizontal, 1 Vertical (R146). -/
def headerArrangement (b6 : Byte) : Arrangement := if b6.getLsbD 0 then .vertical else .horizontal

/-- The mapper id, `{byte 7 [7:4], byte 6 [7:4]}` (R147). -/
def headerMapperId (b6 b7 : Byte) : Byte := b7.extractLsb' 4 4 ++ b6.extractLsb' 4 4

/-! Event codes (R321). -/

/-- The numeric code of a diagnostic kind. -/
def DiagKind.code : DiagKind → Byte
  | .unmappedAccess => 0x01
  | .illegalPpuWrite => 0x02
  | .readOnlyRegionWrite => 0x03

/-- The numeric code of a format error kind. -/
def FormatErrKind.code : FormatErrKind → Byte
  | .badSignature => 0x10
  | .tooShort => 0x11
  | .unsupportedMapper => 0x12

end Sys2Proof.Machine
end

