-- ==== Sys2Proof/Machine/Flags.lean ====
section
/-! DEFINITION. The flags `S.vblank`, `S.w` and `S.ntDirty`, and the status byte (R31, R36, R37, R51). -/

namespace Sys2Proof.Machine

/-- The status byte `{vblank, 0, 0, 00000}` (R31, R202): sprite-0 hit and overflow are never set, bits 4:0 are open bus, 0. -/
def statusByte (vblank : Bool) : Byte := BitVec.ofBool vblank ++ 0#7

/-- What a status read does to the flags: `S.w <- 0`, `S.vblank <- 0` (R202). -/
def State.statusRead (s : State) : State := { s with w := false, vblank := false }

/-- The data-port write's `S.ntDirty <- 1` (R246). -/
def State.markDirty (s : State) : State := { s with ntDirty := true }

/-- ACKVIEW's `S.ntDirty <- 0` (R299). -/
def State.clearDirty (s : State) : State := { s with ntDirty := false }

end Sys2Proof.Machine
end

