-- ==== Sys2Proof/Machine/Ops.lean ====
section
/-! DEFINITION. The named operations the meanings are built from: the byte stores, the event mechanisms (R320, R325, R330), the
mapper's translation and ROM reads (R150 to R154), and the ways an operation ends (R11, R170). The block has no exception entry or
return (R338, R339): raising a diagnostic or an event is all that stands in its place. -/

namespace Sys2Proof.Machine

/-- The outcome of an operation (R11). -/
abbrev Result := Host.Outcome State Fault Refusal

/-! Byte stores. -/

/-- The listed byte at an index. -/
def Memory.read? : Memory → Nat → Option Byte
  | [], _ => none
  | (k, b) :: m, i => if i = k then some b else Memory.read? m i

/-- Lists a byte at an index, keeping the indices strictly rising. -/
def Memory.write : Memory → Nat → Byte → Memory
  | [], i, b => [(i, b)]
  | (k, c) :: m, i, b =>
    if i < k then (i, b) :: (k, c) :: m
    else if i = k then (i, b) :: m
    else (k, c) :: Memory.write m i b

/-- Writes a list of bytes at increasing indices from `i` on. -/
def Memory.writeAll (m : Memory) (i : Nat) : List Byte → Memory
  | [] => m
  | b :: bs => Memory.writeAll (Memory.write m i b) (i + 1) bs

/-- The canonical form of a store of `size` bytes: indices strictly rising and below `size`. No entry equals what an unlisted
index holds, because an unlisted index holds no listed byte but a draw (notes/assumptions/3.md). -/
def Memory.wf (size : Nat) : Memory → Bool
  | [] => true
  | (k, _) :: m => decide (k < size) && m.all (fun c => decide (k < c.1)) && Memory.wf size m

/-- `S.ram[i]` (R38). -/
def State.ramByte (s : State) (i : Nat) : Byte := (s.ram.read? i).getD (Config.powerOnRam s.powerOn i)

/-- `S.nt[i]` (R39). -/
def State.ntByte (s : State) (i : Nat) : Byte := (s.nt.read? i).getD (Config.powerOnNt s.powerOn i)

/-- `S.pal[i]` (R40). -/
def State.palByte (s : State) (i : Nat) : Byte := (s.pal.read? i).getD (Config.powerOnPal s.powerOn i)

/-- `S.oam[i]` (R41). -/
def State.oamByte (s : State) (i : Nat) : Byte := (s.oam.read? i).getD (Config.powerOnOam s.powerOn i)

/-- `S.fb[i]` (R42). -/
def State.fbByte (s : State) (i : Nat) : Byte := s.fb[i]?.getD 0

/-- `S.ram[i] <- d`. -/
def State.writeRam (s : State) (i : Nat) (d : Byte) : State := { s with ram := s.ram.write i d }

/-- `S.nt[i] <- d`. -/
def State.writeNt (s : State) (i : Nat) (d : Byte) : State := { s with nt := s.nt.write i d }

/-- `S.pal[i] <- d`. -/
def State.writePal (s : State) (i : Nat) (d : Byte) : State := { s with pal := s.pal.write i d }

/-- `S.oam[i] <- d`. -/
def State.writeOam (s : State) (i : Nat) (d : Byte) : State := { s with oam := s.oam.write i d }

/-! Events. -/

/-- `emit e`: appends an event to the trace (R9, R45). -/
def State.emit (s : State) (e : Event) : State := { s with trace := s.trace ++ [e] }

/-- `raise Diag(kind, dir, o, a, a', d)`: non-fatal, nothing but the trace changes (R320). -/
def State.raiseDiag (s : State) (kind : DiagKind) (dir : Dir) (x : Access) (d : Byte) : State :=
  s.emit (.diag kind dir x.origin x.logical x.physical d)

/-- `fail FormatError(kind, info)`: INSERT ends with the event, nothing else changed (R325). -/
def State.failFormat (s : State) (kind : FormatErrKind) (info : Option Byte) : State :=
  s.emit (.formatErr kind info)

/-- A draw from a collaborator: the draw's byte at the next draw index, which is then used up (R10). -/
def State.drawn (s : State) : State := { s with draws := s.draws + 1 }

/-! How an operation ends. -/

/-- The meaning of an operation that needs a cartridge: refused while none is inserted (R170, R171, R363). -/
def withCart (s : State) (f : NesRom → Result) : Result :=
  match s.cart with
  | none => .refused .noCartridge
  | some c => f c

/-- A read operation returns its byte (R170): the byte is appended to the replies. -/
def answer (r : Byte × State) : Result :=
  .next { r.2 with replies := r.2.replies ++ [r.1] }

/-! Mapper and ROM. -/

/-- `Translate(a, o)` of NROM (R150, R151), the only mapper a cartridge can have (R148). -/
def translate (c : NesRom) (a : Addr) (o : Origin) : Addr :=
  if o = .cpu ∧ 0xC000 ≤ a.toNat ∧ c.prgBankCount16K = 1 then a - 0x4000 else a

/-- A read that reaches no backing byte: 0, with an `UnmappedAccess` (R72, R320, R322). -/
def missedRead (x : Access) (s : State) : Byte × State :=
  (0x00, s.raiseDiag .unmappedAccess .r x 0x00)

/-- The read contract of a ROM region: byte `k`, or a miss past its end. -/
def romRead (region : List Byte) (k : Nat) (x : Access) (s : State) : Byte × State :=
  match region[k]? with
  | some b => (b, s)
  | none => missedRead x s

/-- `ChrRead(a')` (R153). -/
def chrRead (c : NesRom) (x : Access) (s : State) : Byte × State :=
  romRead c.chr x.physical.toNat x s

/-- `PrgRead(a')` (R154); the PRG window starts at `0x8000`. -/
def prgRead (c : NesRom) (x : Access) (s : State) : Byte × State :=
  romRead c.prg (x.physical.toNat - 0x8000) x s

end Sys2Proof.Machine
end

