-- ==== Sys2Proof/Machine/Cartridge.lean ====
section
/-! DEFINITION. INSERT: parsing a cartridge image (R140 to R149, R325 to R328). -/

namespace Sys2Proof.Machine

/-- What parsing an image gives: a cartridge or the first failing check. -/
inductive Parsed where
  | rom (c : NesRom)
  | error (kind : FormatErrKind) (info : Option Byte)
deriving DecidableEq, Repr

/-- Byte `i` of the image. -/
def imgByte (img : List Byte) (i : Nat) : Byte := img.getD i 0

/-- Bytes `i` to `i + n - 1` of the image. -/
def imgSlice (img : List Byte) (i n : Nat) : List Byte := (img.drop i).take n

/-- The length of the trainer that header byte 6 announces (R144). -/
def trainerLen (img : List Byte) : Nat := if headerHasTrainer (imgByte img 6) then 512 else 0

/-- Where PRG starts: after the header and the trainer (R145). -/
def prgOffset (img : List Byte) : Nat := 16 + trainerLen img

/-- The length of PRG in bytes (R143). -/
def prgLen (img : List Byte) : Nat := (imgByte img 4).toNat * 16384

/-- The length of CHR in bytes (R143). -/
def chrLen (img : List Byte) : Nat := (imgByte img 5).toNat * 8192

/-- The bytes an image needs (R142). -/
def imgNeed (img : List Byte) : Nat := prgOffset img + prgLen img + chrLen img

/-- The record sliced from an image that passes every check (R140, R145). -/
def imgRom (img : List Byte) : NesRom where
  header               := imgSlice img 0 16
  trainer              := if headerHasTrainer (imgByte img 6) then some (imgSlice img 16 512) else none
  prg                  := imgSlice img (prgOffset img) (prgLen img)
  chr                  := imgSlice img (prgOffset img + prgLen img) (chrLen img)
  prgBankCount16K      := imgByte img 4
  chrBankCount8K       := imgByte img 5
  mapperId             := headerMapperId (imgByte img 6) (imgByte img 7)
  nametableArrangement := headerArrangement (imgByte img 6)

/-- The checks in their order: signature, header length, data length, mapper (R140, R336). -/
def parseImage (img : List Byte) : Parsed :=
  if img.length < 4 ∨ img.take 4 ≠ headerMagic then .error .badSignature none
  else if img.length < 16 then .error .tooShort none
  else if img.length < imgNeed img then .error .tooShort none
  else
    let mapperId := headerMapperId (imgByte img 6) (imgByte img 7)
    if mapperId ∈ Config.supportedMappers then .rom (imgRom img)
    else .error .unsupportedMapper (some mapperId)

/-- INSERT (R140): only `S.cart` changes on success, only the trace on failure. Never refused (R363). -/
def execInsert (image : List Byte) (s : State) : Result :=
  match parseImage image with
  | .rom c => .next { s with cart := some c }
  | .error kind info => .next (s.failFormat kind info)

end Sys2Proof.Machine
end

