-- ==== Sys2Proof/Machine/HostOps.lean ====
section
/-! DEFINITION. RESET (R360) and the pseudo-operations of R119. -/

namespace Sys2Proof.Machine

/-- RESET (R360): every field but `S.cart` and `S.trace`; the four memories take a fresh power-on draw. Never refused (R363). -/
def execReset (s : State) : Result :=
  .next { s with
    ctrl := 0x00, mask := 0x00, vblank := false, oamAddr := 0x00, scrollX := 0x00, scrollY := 0x00,
    v := 0x0000, t := 0x0000, w := false, ntDirty := false,
    ram := [], nt := [], pal := [], oam := [], fb := Vector.replicate fbSize 0x00,
    powerOn := s.draws, draws := s.draws + 1 }

/-- The pseudo-operations (R119). -/
inductive Pseudo where
  | latchRst
  | setV (hi lo : Byte)
  | scroll (x y : Byte)
  | vpoke (hi lo : Byte) (bytes : List Byte)
  | vpeek (hi lo : Byte) (n : Nat)
  | dma (page : Byte)
  | oamPoke (o : Byte) (bytes : List Byte)
deriving DecidableEq, Repr

/-- The CPU-origin writes of a list of bytes to one address. -/
def writesTo (a : Addr) (bytes : List Byte) : List Request := bytes.map (.write .cpu a)

/-- `LATCHRST` and a pair of writes to one of the two-write ports. -/
def pairTo (a : Addr) (b0 b1 : Byte) : List Request := .read .cpu 0x2002 :: writesTo a [b0, b1]

/-- The expansion of a pseudo-operation into the operations it stands for. -/
def Pseudo.expand : Pseudo → List Request
  | .latchRst => [.read .cpu 0x2002]
  | .setV hi lo => pairTo 0x2006 hi lo
  | .scroll x y => pairTo 0x2005 x y
  | .vpoke hi lo bytes => pairTo 0x2006 hi lo ++ writesTo 0x2007 bytes
  | .vpeek hi lo n => pairTo 0x2006 hi lo ++ List.replicate n (.read .cpu 0x2007)
  | .dma page => [.write .cpu 0x4014 page]
  | .oamPoke o bytes => .write .cpu 0x2003 o :: writesTo 0x2004 bytes

end Sys2Proof.Machine
end

