-- ==== Sys2Proof/Machine/Vram.lean ====
section
/-! DEFINITION. The VRAM controller (spec/43_vram.md): `NtIndex`, `PalIndex`, the eight region rows and the data-port accesses
`VramRead` and `VramWrite`. -/

namespace Sys2Proof.Machine

/-- `NtIndex(p)` for `p` in `[0x2000, 0x3000)` (R250). -/
def ntIndex (arr : Arrangement) (p : PAddr) : Nat :=
  let q := (p.toNat - 0x2000) / 0x400
  let off := p.toNat % 0x400
  let phys := match arr with
    | .vertical => q % 2
    | .horizontal => q / 2
  phys * 0x400 + off

/-- `PalIndex(p)` for `p` in `[0x3F00, 0x4000)` (R254, R255). -/
def palIndex (p : PAddr) : Nat :=
  let i := p.toNat % 0x20
  if i = 0x10 ∨ i = 0x14 ∨ i = 0x18 ∨ i = 0x1C then i - 0x10 else i

/-- The PPU-origin access of a pattern address (R247). -/
def patAccess (c : NesRom) (p : PAddr) : Access :=
  { origin := .ppu, logical := p.setWidth 16, physical := translate c (p.setWidth 16) .ppu }

/-! Region rows. -/

/-- VRD.PAL (R256). -/
def ruleVrdPal (p : PAddr) (s : State) : Byte × State := (s.palByte (palIndex p), s)

/-- VWR.PAL (R257). -/
def ruleVwrPal (p : PAddr) (d : Byte) (s : State) : State := s.writePal (palIndex p) d

/-- VRD.NTM (R252): the mirror of `[0x2000, 0x2F00)`. -/
def ruleVrdNtm (c : NesRom) (p : PAddr) (s : State) : Byte × State :=
  (s.ntByte (ntIndex c.nametableArrangement (p - 0x1000)), s)

/-- VWR.NTM (R258). -/
def ruleVwrNtm (c : NesRom) (p : PAddr) (d : Byte) (s : State) : State :=
  s.writeNt (ntIndex c.nametableArrangement (p - 0x1000)) d

/-- VRD.NT (R251). -/
def ruleVrdNt (c : NesRom) (p : PAddr) (s : State) : Byte × State :=
  (s.ntByte (ntIndex c.nametableArrangement p), s)

/-- VWR.NT (R253). -/
def ruleVwrNt (c : NesRom) (p : PAddr) (d : Byte) (s : State) : State :=
  s.writeNt (ntIndex c.nametableArrangement p) d

/-- VRD.PAT (R247): `BusRead(p, PPU)`, which selects PRD.CHR (R189), whose rule is `ChrRead` (R174). -/
def ruleVrdPat (c : NesRom) (p : PAddr) (s : State) : Byte × State :=
  chrRead c (patAccess c p) s

/-- VWR.PAT (R248): dropped, with `Diag(ReadOnlyRegionWrite, W, PPU, p, p, d)`. -/
def ruleVwrPat (p : PAddr) (d : Byte) (s : State) : State :=
  s.raiseDiag .readOnlyRegionWrite .w { origin := .ppu, logical := p.setWidth 16, physical := p.setWidth 16 } d

/-! Data-port accesses. -/

/-- The rule of a VRAM read row. -/
def vramReadRow (c : NesRom) (i : Instr) (s : State) : Byte × State :=
  match i with
  | .vrdPal p => ruleVrdPal p s
  | .vrdNtm p => ruleVrdNtm c p s
  | .vrdNt p => ruleVrdNt c p s
  | .vrdPat p => ruleVrdPat c p s
  | .rdRam _ | .wrRam _ _ | .prdChr _ | .pwrChr _ _ | .rdCtrl _ | .rdMask _ | .rdStatus _ | .rdOamaddr _ | .rdOamdata _
  | .rdScroll _ | .rdAddr _ | .rdData _ | .wrCtrl _ _ | .wrMask _ _ | .wrStatus _ _ | .wrOamaddr _ _ | .wrOamdata _ _
  | .wrScrollX _ _ | .wrScrollY _ _ | .wrAddrHi _ _ | .wrAddrLo _ _ | .wrData _ _ | .wrOamdma _ _ | .rdApustat _
  | .wrApu _ _ | .rdJoy1 _ | .wrJoy1 _ _ | .rdJoy2 _ | .wrJoy2 _ _ | .rdOpen _ | .wrOpen _ _ | .rdCartlo _ | .wrCartlo _ _
  | .rdPrg _ | .wrPrg _ _ | .vwrPal _ _ | .vwrNtm _ _ | .vwrNt _ _ | .vwrPat _ _ | .reset | .insert _ | .render
  | .ackview => (0x00, s)

/-- The rule of a VRAM write row. -/
def vramWriteRow (c : NesRom) (i : Instr) (s : State) : State :=
  match i with
  | .vwrPal p d => ruleVwrPal p d s
  | .vwrNtm p d => ruleVwrNtm c p d s
  | .vwrNt p d => ruleVwrNt c p d s
  | .vwrPat p d => ruleVwrPat p d s
  | .rdRam _ | .wrRam _ _ | .prdChr _ | .pwrChr _ _ | .rdCtrl _ | .rdMask _ | .rdStatus _ | .rdOamaddr _ | .rdOamdata _
  | .rdScroll _ | .rdAddr _ | .rdData _ | .wrCtrl _ _ | .wrMask _ _ | .wrStatus _ _ | .wrOamaddr _ _ | .wrOamdata _ _
  | .wrScrollX _ _ | .wrScrollY _ _ | .wrAddrHi _ _ | .wrAddrLo _ _ | .wrData _ _ | .wrOamdma _ _ | .rdApustat _
  | .wrApu _ _ | .rdJoy1 _ | .wrJoy1 _ _ | .rdJoy2 _ | .wrJoy2 _ _ | .rdOpen _ | .wrOpen _ _ | .rdCartlo _ | .wrCartlo _ _
  | .rdPrg _ | .wrPrg _ _ | .vrdPal _ | .vrdNtm _ | .vrdNt _ | .vrdPat _ | .reset | .insert _ | .render | .ackview => s

/-- `VramRead(p)` (R240): the first VRAM row that matches the key `{0, p, 0x00}`. -/
def vramRead (c : NesRom) (p : PAddr) (s : State) : Byte × State :=
  match decodeVramKey (vramKey false p 0x00) with
  | some i => vramReadRow c i s
  | none => (0x00, s)

/-- `VramWrite(p, d)` (R241): the first VRAM row that matches the key `{1, p, d}`. -/
def vramWrite (c : NesRom) (p : PAddr) (d : Byte) (s : State) : State :=
  match decodeVramKey (vramKey true p d) with
  | some i => vramWriteRow c i s
  | none => s

/-! Meanings of the VRAM rows, as the data port performs them: no step is given one (R100). -/

/-- VRD.PAL. -/
def execVrdPal (p : PAddr) (s : State) : Result := withCart s fun _ => answer (ruleVrdPal p s)
/-- VWR.PAL. -/
def execVwrPal (p : PAddr) (d : Byte) (s : State) : Result := withCart s fun _ => .next (ruleVwrPal p d s)
/-- VRD.NTM. -/
def execVrdNtm (p : PAddr) (s : State) : Result := withCart s fun c => answer (ruleVrdNtm c p s)
/-- VWR.NTM. -/
def execVwrNtm (p : PAddr) (d : Byte) (s : State) : Result := withCart s fun c => .next (ruleVwrNtm c p d s)
/-- VRD.NT. -/
def execVrdNt (p : PAddr) (s : State) : Result := withCart s fun c => answer (ruleVrdNt c p s)
/-- VWR.NT. -/
def execVwrNt (p : PAddr) (d : Byte) (s : State) : Result := withCart s fun c => .next (ruleVwrNt c p d s)
/-- VRD.PAT. -/
def execVrdPat (p : PAddr) (s : State) : Result := withCart s fun c => answer (ruleVrdPat c p s)
/-- VWR.PAT. -/
def execVwrPat (p : PAddr) (d : Byte) (s : State) : Result := withCart s fun _ => .next (ruleVwrPat p d s)

end Sys2Proof.Machine
end

