-- ==== Sys2Proof/Machine/Ppu.lean ====
section
/-! DEFINITION. The PPU register ports (spec/42_ppu_registers.md). A read rule gives the byte and the state after; the bus
dispatcher uses the same rules for its own reads (Machine/Bus.lean). -/

namespace Sys2Proof.Machine

/-- `S.v <- (S.v + inc) mod 2^15` (R245). -/
def State.advanceV (s : State) : State := { s with v := s.v + ctrlIncrement s.ctrl }

/-- The PPU bus address of a data-port access, `S.v[13:0]` (R242). -/
def State.dataAddr (s : State) : PAddr := s.v.extractLsb' 0 14

/-! Read rules. -/

/-- RD.CTRL: the register is write-only, 0 (R200). -/
def ruleRdCtrl (s : State) : Byte × State := (0x00, s)
/-- RD.MASK (R201). -/
def ruleRdMask (s : State) : Byte × State := (0x00, s)
/-- RD.STATUS: the byte before the clear (R202). -/
def ruleRdStatus (s : State) : Byte × State := (statusByte s.vblank, s.statusRead)
/-- RD.OAMADDR (R203). -/
def ruleRdOamaddr (s : State) : Byte × State := (0x00, s)
/-- RD.OAMDATA: `S.oam[S.oamAddr]`, with no increment (R204). -/
def ruleRdOamdata (s : State) : Byte × State := (s.oamByte s.oamAddr.toNat, s)
/-- RD.SCROLL: the latch is not toggled (R205). -/
def ruleRdScroll (s : State) : Byte × State := (0x00, s)
/-- RD.ADDR (R206). -/
def ruleRdAddr (s : State) : Byte × State := (0x00, s)
/-- RD.DATA: `VramRead(S.v[13:0])`, then the increment (R207). -/
def ruleRdData (c : NesRom) (s : State) : Byte × State :=
  let r := vramRead c s.dataAddr s
  (r.1, r.2.advanceV)

/-! Meanings of the read ports. -/

/-- RD.CTRL (R200). -/
def execRdCtrl (_ : Access) (s : State) : Result := withCart s fun _ => answer (ruleRdCtrl s)
/-- RD.MASK (R201). -/
def execRdMask (_ : Access) (s : State) : Result := withCart s fun _ => answer (ruleRdMask s)
/-- RD.STATUS (R202). -/
def execRdStatus (_ : Access) (s : State) : Result := withCart s fun _ => answer (ruleRdStatus s)
/-- RD.OAMADDR (R203). -/
def execRdOamaddr (_ : Access) (s : State) : Result := withCart s fun _ => answer (ruleRdOamaddr s)
/-- RD.OAMDATA (R204). -/
def execRdOamdata (_ : Access) (s : State) : Result := withCart s fun _ => answer (ruleRdOamdata s)
/-- RD.SCROLL (R205). -/
def execRdScroll (_ : Access) (s : State) : Result := withCart s fun _ => answer (ruleRdScroll s)
/-- RD.ADDR (R206). -/
def execRdAddr (_ : Access) (s : State) : Result := withCart s fun _ => answer (ruleRdAddr s)
/-- RD.DATA (R207). -/
def execRdData (_ : Access) (s : State) : Result := withCart s fun c => answer (ruleRdData c s)

/-! Meanings of the write ports. -/

/-- WR.CTRL (R210): no NmiRequest, whatever bit 7 and `S.vblank` are. -/
def execWrCtrl (_ : Access) (d : Byte) (s : State) : Result :=
  withCart s fun _ => .next { s with ctrl := d, t := foldNametable s.t d }

/-- WR.MASK (R211). -/
def execWrMask (_ : Access) (d : Byte) (s : State) : Result :=
  withCart s fun _ => .next { s with mask := d }

/-- WR.STATUS (R212): ignored. -/
def execWrStatus (_ : Access) (_ : Byte) (s : State) : Result :=
  withCart s fun _ => .next s

/-- WR.OAMADDR (R213). -/
def execWrOamaddr (_ : Access) (d : Byte) (s : State) : Result :=
  withCart s fun _ => .next { s with oamAddr := d }

/-- WR.OAMDATA (R214): the address wraps mod 256. -/
def execWrOamdata (_ : Access) (d : Byte) (s : State) : Result :=
  withCart s fun _ => .next { s.writeOam s.oamAddr.toNat d with oamAddr := s.oamAddr + 1 }

/-- WR.SCROLL.X (R215). -/
def execWrScrollX (_ : Access) (d : Byte) (s : State) : Result :=
  withCart s fun _ => .next { s with scrollX := d, t := foldScrollX s.t d, w := true }

/-- WR.SCROLL.Y (R216). -/
def execWrScrollY (_ : Access) (d : Byte) (s : State) : Result :=
  withCart s fun _ => .next { s with scrollY := d, t := foldScrollY s.t d, w := false }

/-- WR.ADDR.HI (R217). -/
def execWrAddrHi (_ : Access) (d : Byte) (s : State) : Result :=
  withCart s fun _ => .next { s with t := foldAddrHi s.t d, w := true }

/-- WR.ADDR.LO (R218): the commit copies all 15 bits. -/
def execWrAddrLo (_ : Access) (d : Byte) (s : State) : Result :=
  withCart s fun _ => .next { s with t := foldAddrLo s.t d, v := foldAddrLo s.t d, w := false }

/-- WR.DATA (R219): the write, then `S.ntDirty`, then the increment. -/
def execWrData (_ : Access) (d : Byte) (s : State) : Result :=
  withCart s fun c => .next (vramWrite c s.dataAddr d s).markDirty.advanceV

end Sys2Proof.Machine
end

