-- ==== Sys2Proof/Machine/Bus.lean ====
section
/-! DEFINITION. The bus dispatcher (spec/41_bus.md): the rows outside the PPU register window, `BusRead`, and OAM-DMA. -/

namespace Sys2Proof.Machine

/-! Read rules. -/

/-- RD.RAM (R172): the four mirrors are one cell (R63). -/
def ruleRdRam (x : Access) (s : State) : Byte × State := (s.ramByte (x.physical.toNat % 0x0800), s)
/-- PRD.CHR (R174). -/
def rulePrdChr (c : NesRom) (x : Access) (s : State) : Byte × State := chrRead c x s
/-- RD.CARTLO (R176): no PRG lies below `0x8000`. -/
def ruleRdCartlo (x : Access) (s : State) : Byte × State := missedRead x s
/-- RD.PRG (R177). -/
def ruleRdPrg (c : NesRom) (x : Access) (s : State) : Byte × State := prgRead c x s
/-- RD.APUSTAT (R179): a draw. -/
def ruleRdApustat (s : State) : Byte × State := (Config.apuStatus s.draws, s.drawn)
/-- RD.JOY1 (R180): a draw when the input collaborator is present, else 0. -/
def ruleRdJoy1 (s : State) : Byte × State := (if Config.inputPresent then Config.joy1 s.draws else 0x00, s.drawn)
/-- RD.JOY2 (R181). -/
def ruleRdJoy2 (s : State) : Byte × State := (if Config.inputPresent then Config.joy2 s.draws else 0x00, s.drawn)
/-- RD.OPEN (R184). -/
def ruleRdOpen (x : Access) (s : State) : Byte × State := missedRead x s

/-- The rule of a BUS read row: `(the rule of row)(a, a', o)` of R170. -/
def busReadRow (c : NesRom) (i : Instr) (s : State) : Byte × State :=
  match i with
  | .rdRam x => ruleRdRam x s
  | .prdChr x => rulePrdChr c x s
  | .rdCtrl _ => ruleRdCtrl s
  | .rdMask _ => ruleRdMask s
  | .rdStatus _ => ruleRdStatus s
  | .rdOamaddr _ => ruleRdOamaddr s
  | .rdOamdata _ => ruleRdOamdata s
  | .rdScroll _ => ruleRdScroll s
  | .rdAddr _ => ruleRdAddr s
  | .rdData _ => ruleRdData c s
  | .rdApustat _ => ruleRdApustat s
  | .rdJoy1 _ => ruleRdJoy1 s
  | .rdJoy2 _ => ruleRdJoy2 s
  | .rdOpen x => ruleRdOpen x s
  | .rdCartlo x => ruleRdCartlo x s
  | .rdPrg x => ruleRdPrg c x s
  | .wrRam _ _ | .pwrChr _ _ | .wrCtrl _ _ | .wrMask _ _ | .wrStatus _ _ | .wrOamaddr _ _ | .wrOamdata _ _
  | .wrScrollX _ _ | .wrScrollY _ _ | .wrAddrHi _ _ | .wrAddrLo _ _ | .wrData _ _ | .wrOamdma _ _ | .wrApu _ _
  | .wrJoy1 _ _ | .wrJoy2 _ _ | .wrOpen _ _ | .wrCartlo _ _ | .wrPrg _ _ | .vrdPal _ | .vwrPal _ _ | .vrdNtm _
  | .vwrNtm _ _ | .vrdNt _ | .vwrNt _ _ | .vrdPat _ | .vwrPat _ _ | .reset | .insert _ | .render | .ackview => (0x00, s)

/-- `BusRead(a, o)` with a cartridge present (R170): translate, form the key `{S.w, 0, o, a', 0x00}`, perform the first row. -/
def busRead (c : NesRom) (a : Addr) (o : Origin) (s : State) : Byte × State :=
  match decodeBusKey (busKey s.w false o (translate c a o) 0x00) a with
  | some i => busReadRow c i s
  | none => (0x00, s)

/-- Bus reads one after the other, and the bytes they return (R178, R272). -/
def busReads (c : NesRom) (o : Origin) : List Addr → State → List Byte × State
  | [], s => ([], s)
  | a :: as, s =>
    let r := busRead c a o s
    let rs := busReads c o as r.2
    (r.1 :: rs.1, rs.2)

/-! Meanings of the rows outside the register window. -/

/-- RD.RAM (R172). -/
def execRdRam (x : Access) (s : State) : Result := withCart s fun _ => answer (ruleRdRam x s)

/-- WR.RAM (R173). -/
def execWrRam (x : Access) (d : Byte) (s : State) : Result :=
  withCart s fun _ => .next (s.writeRam (x.physical.toNat % 0x0800) d)

/-- PRD.CHR (R174). -/
def execPrdChr (x : Access) (s : State) : Result := withCart s fun c => answer (rulePrdChr c x s)

/-- PWR.CHR (R175): dropped, with `IllegalPpuWrite`. -/
def execPwrChr (x : Access) (d : Byte) (s : State) : Result :=
  withCart s fun _ => .next (s.raiseDiag .illegalPpuWrite .w x d)

/-- RD.CARTLO (R176). -/
def execRdCartlo (x : Access) (s : State) : Result := withCart s fun _ => answer (ruleRdCartlo x s)

/-- WR.CARTLO (R186): dropped, with `ReadOnlyRegionWrite`. -/
def execWrCartlo (x : Access) (d : Byte) (s : State) : Result :=
  withCart s fun _ => .next (s.raiseDiag .readOnlyRegionWrite .w x d)

/-- RD.PRG (R177). -/
def execRdPrg (x : Access) (s : State) : Result := withCart s fun c => answer (ruleRdPrg c x s)

/-- WR.PRG (R187): dropped, with `ReadOnlyRegionWrite`. -/
def execWrPrg (x : Access) (d : Byte) (s : State) : Result :=
  withCart s fun _ => .next (s.raiseDiag .readOnlyRegionWrite .w x d)

/-- RD.APUSTAT (R179). -/
def execRdApustat (_ : Access) (s : State) : Result := withCart s fun _ => answer (ruleRdApustat s)

/-- WR.APU (R182). -/
def execWrApu (_ : Access) (d : Byte) (s : State) : Result :=
  withCart s fun _ => .next (s.emit (.apuWrite 0x4015 d))

/-- RD.JOY1 (R180). -/
def execRdJoy1 (_ : Access) (s : State) : Result := withCart s fun _ => answer (ruleRdJoy1 s)

/-- WR.JOY1 (R183). -/
def execWrJoy1 (_ : Access) (d : Byte) (s : State) : Result :=
  withCart s fun _ => .next (s.emit (.inputWrite 0x4016 d))

/-- RD.JOY2 (R181). -/
def execRdJoy2 (_ : Access) (s : State) : Result := withCart s fun _ => answer (ruleRdJoy2 s)

/-- WR.JOY2 (R188). -/
def execWrJoy2 (_ : Access) (d : Byte) (s : State) : Result :=
  withCart s fun _ => .next (s.emit (.inputWrite 0x4017 d))

/-- RD.OPEN (R184). -/
def execRdOpen (x : Access) (s : State) : Result := withCart s fun _ => answer (ruleRdOpen x s)

/-- WR.OPEN (R185): dropped, with `UnmappedAccess`. -/
def execWrOpen (x : Access) (d : Byte) (s : State) : Result :=
  withCart s fun _ => .next (s.raiseDiag .unmappedAccess .w x d)

/-! OAM-DMA. -/

/-- The 256 source addresses of an OAM-DMA page, ascending (R110, R178). -/
def dmaSources (d : Byte) : List Addr := (List.range 256).map (dmaSource d)

/-- WR.OAMDMA (R178): 256 CPU-origin reads through the bus, then OAM byte i takes source byte i. -/
def execWrOamdma (_ : Access) (d : Byte) (s : State) : Result :=
  withCart s fun c =>
    let r := busReads c .cpu (dmaSources d) s
    .next { r.2 with oam := r.2.oam.writeAll 0 r.1 }

end Sys2Proof.Machine
end

