-- ==== Sys2Proof/Machine/Render.lean ====
section
/-! DEFINITION. The rendering pass (spec/44_render.md): pattern fetch, background pass, sprite evaluation with its one-line delay,
sprite draw, and the end of the frame. -/

namespace Sys2Proof.Machine

/-! Pattern fetch. -/

/-- The 8192 pattern addresses in ascending order (R272). -/
def patAddrs : List Addr := (List.range 0x2000).map (BitVec.ofNat 16)

/-- `PatFetch()`: a PPU-origin bus read of each pattern address (R272). -/
def patFetch (c : NesRom) (s : State) : List Byte × State := busReads c .ppu patAddrs s

/-- `TilePixel(pat, table, tile, r, c)`: the 2-bit colour index of a pixel of a tile (R273). -/
def tilePixel (pat : List Byte) (table tile r col : Nat) : Nat :=
  let base := table * 0x1000 + tile * 16
  let lo := ((pat.getD (base + r) 0).getLsbD (7 - col)).toNat
  let hi := ((pat.getD (base + r + 8) 0).getLsbD (7 - col)).toNat
  lo + 2 * hi

/-! Pixels and colours. -/

/-- `PutPixel(x, y, (R, G, B))` for a visible pixel (R42, R275). -/
def putPixel (fb : Framebuffer) (x y : Nat) (rgb : Rgb) : Framebuffer :=
  let i := 3 * (256 * y + x)
  ((fb.setIfInBounds i rgb.red).setIfInBounds (i + 1) rgb.green).setIfInBounds (i + 2) rgb.blue

/-- The colour a palette cell selects: the low 6 bits index `MASTER_PALETTE` (R281, R293). -/
def paletteColour (s : State) (i : Nat) : Rgb := Config.masterPalette ((s.palByte i).extractLsb' 0 6)

/-- `BgColour(sel, ci)` (R281): index 0 is always the universal background colour. -/
def bgColour (s : State) (sel ci : Nat) : Rgb := paletteColour s (if ci = 0 then 0x00 else 4 * sel + ci)

/-- `SpColour(p, ci)` (R293). -/
def spColour (s : State) (p ci : Nat) : Rgb := paletteColour s (0x10 + 4 * p + ci)

/-! Background pass. -/

/-- The vertical walk's step of coarse Y and the vertical nametable bit (R278). -/
def rowStep (r : Nat × Nat) : Nat × Nat :=
  if r.1 = 29 then (0, (r.2 + 1) % 2)
  else if r.1 = 31 then (0, r.2)
  else (r.1 + 1, r.2)

/-- Coarse Y and the vertical nametable bit of cell row `cy` (R278). -/
def cellRow (s : State) : Nat → Nat × Nat
  | 0 => (s.scrollY.toNat / 8, tVertical s.t)
  | cy + 1 => rowStep (cellRow s cy)

/-- Coarse X and the horizontal nametable bit of cell column `cx` (R277). -/
def cellCol (s : State) (cx : Nat) : Nat × Nat :=
  let x := s.scrollX.toNat / 8 + cx
  (x % 32, if x < 32 then tHorizontal s.t else (tHorizontal s.t + 1) % 2)

/-- A background cell's place: nametable `n`, tile column and tile row. -/
structure Cell where
  n  : Nat
  tx : Nat
  ty : Nat
deriving DecidableEq, Repr

/-- `CellCoords(cx, cy)` (R276 to R278): `n = {vbit, hbit}`. -/
def cellCoords (s : State) (cx cy : Nat) : Cell :=
  let col := cellCol s cx
  let row := cellRow s cy
  { n := 2 * row.2 + col.2, tx := col.1, ty := row.1 }

/-- The PPU address of a cell's tile byte, `0x2000 | (n << 10) | (ty << 5) | tx` (R275). -/
def tileAddr (k : Cell) : PAddr :=
  BitVec.ofNat 14 (0x2000 ||| (k.n <<< 10) ||| (k.ty <<< 5) ||| k.tx)

/-- The PPU address of a cell's attribute byte, `0x23C0 | (n << 10) | ((ty >> 2) << 3) | (tx >> 2)` (R279). -/
def attrAddr (k : Cell) : PAddr :=
  BitVec.ofNat 14 (0x23C0 ||| (k.n <<< 10) ||| ((k.ty >>> 2) <<< 3) ||| (k.tx >>> 2))

/-- The tile index of a cell (R275). -/
def cellTile (c : NesRom) (s : State) (k : Cell) : Nat :=
  (s.ntByte (ntIndex c.nametableArrangement (tileAddr k))).toNat

/-- The palette selector of a cell: the 2-bit field at bit `((ty & 2) << 1) | (tx & 2)` of its attribute byte (R279). -/
def cellSel (c : NesRom) (s : State) (k : Cell) : Nat :=
  ((s.ntByte (ntIndex c.nametableArrangement (attrAddr k))).toNat >>> (((k.ty &&& 2) <<< 1) ||| (k.tx &&& 2))) &&& 3

/-- The colour of pixel (r, col) of a cell (R275, R280, R281). -/
def cellColour (c : NesRom) (s : State) (pat : List Byte) (k : Cell) (r col : Nat) : Rgb :=
  bgColour s (cellSel c s k) (tilePixel pat (ctrlBgTable s.ctrl) (cellTile c s k) r col)

/-- One pixel of `BgCell`: it is put where the fine scroll places it, if that is visible (R275, R282). -/
def bgPixel (s : State) (cx cy : Nat) (rgb : Rgb) (r col : Nat) (fb : Framebuffer) : Framebuffer :=
  let px : Int := (8 * cx + col : Nat) - ((s.scrollX.toNat % 8 : Nat) : Int)
  let py : Int := (8 * cy + r : Nat) - ((s.scrollY.toNat % 8 : Nat) : Int)
  if 0 ≤ px ∧ px < 256 ∧ 0 ≤ py ∧ py < 240 then putPixel fb px.toNat py.toNat rgb else fb

/-- `BgCell(cx, cy, pat)` (R275). -/
def bgCell (c : NesRom) (s : State) (pat : List Byte) (cx cy : Nat) (fb : Framebuffer) : Framebuffer :=
  let k := cellCoords s cx cy
  (List.range 8).foldl (fun fb r =>
    (List.range 8).foldl (fun fb col => bgPixel s cx cy (cellColour c s pat k r col) r col fb) fb) fb

/-- The background pass: cells `cy = 0..30`, within each `cx = 0..32` (R274). -/
def bgPass (c : NesRom) (s : State) (pat : List Byte) (fb : Framebuffer) : Framebuffer :=
  (List.range 31).foldl (fun fb cy =>
    (List.range 33).foldl (fun fb cx => bgCell c s pat cx cy fb) fb) fb

/-! Sprite evaluation. -/

/-- A candidate: an OAM entry index and the sprite row evaluated (R284). -/
structure Candidate where
  i   : Nat
  row : Nat
deriving DecidableEq, Repr

/-- `SpriteEval(s, h)` over a list of entry indices, with the candidates found so far (R283). -/
def spriteScan (s : State) (line h : Nat) : List Nat → List Candidate → List Candidate
  | [], nb => nb
  | i :: is, nb =>
    let r : Int := (line : Int) - ((s.oamByte (4 * i)).toNat : Int)
    if 0 ≤ r ∧ r < (h : Int) ∧ nb.length < 8 then spriteScan s line h is (nb ++ [⟨i, r.toNat⟩])
    else spriteScan s line h is nb

/-- `SpriteEval(s, h)` of evaluation line `line`: all 64 entries in ascending order (R283, R284). -/
def spriteEval (s : State) (line h : Nat) : List Candidate := spriteScan s line h (List.range 64) []

/-! Sprite draw. -/

/-- Where a sprite row's pattern lies: table, tile and tile row. -/
structure PatRow where
  table : Nat
  tile  : Nat
  row   : Nat
deriving DecidableEq, Repr

/-- The tile selection of R290 for entry byte 1 `tile`, byte 2 `a` and evaluated row `r` of a sprite `h` pixels high. -/
def spriteTile (ctrl : Byte) (h : Nat) (tile a : Byte) (r : Nat) : PatRow :=
  let row := if objFlipV a then h - 1 - r else r
  if h = 16 then
    { table := tile.toNat % 2, tile := tile.toNat / 2 * 2 + (if row ≥ 8 then 1 else 0), row := row % 8 }
  else { table := ctrlSpriteTable ctrl, tile := tile.toNat, row := row }

/-- The colour index of pixel `k`, left to right on screen, of a candidate's row (R290 to R292). -/
def spriteIndex (s : State) (h : Nat) (pat : List Byte) (q : Candidate) (k : Nat) : Nat :=
  let a := s.oamByte (4 * q.i + 2)
  let p := spriteTile s.ctrl h (s.oamByte (4 * q.i + 1)) a q.row
  let col := if objFlipH a then 7 - k else k
  tilePixel pat p.table p.tile p.row col

/-- `SpriteRow(i, r', s, h, pat)` (R292): transparent and clipped pixels are skipped (R294). -/
def spriteRow (s : State) (h : Nat) (pat : List Byte) (line : Nat) (q : Candidate) (fb : Framebuffer) : Framebuffer :=
  let a := s.oamByte (4 * q.i + 2)
  let x := (s.oamByte (4 * q.i + 3)).toNat
  (List.range 8).foldl (fun fb k =>
    let ci := spriteIndex s h pat q k
    if ci = 0 then fb
    else if x + k ≥ 256 then fb
    else putPixel fb (x + k) line (spColour s (objPalette a) ci)) fb

/-- One line of the foreground pass: the buffer is drawn in descending OAM order (R295), then the next one is evaluated (R285). -/
def spriteLine (s : State) (h : Nat) (pat : List Byte) (r : Framebuffer × List Candidate) (line : Nat) :
    Framebuffer × List Candidate :=
  (r.2.reverse.foldl (fun fb q => spriteRow s h pat line q fb) r.1, spriteEval s line h)

/-- The foreground pass over lines 0 to 239, from an empty buffer; the last set is discarded (R270, R286). -/
def spritePass (s : State) (h : Nat) (pat : List Byte) (fb : Framebuffer) : Framebuffer :=
  ((List.range 240).foldl (spriteLine s h pat) (fb, [])).1

/-- The framebuffer of a frame (R270). -/
def renderFb (c : NesRom) (s : State) (pat : List Byte) : Framebuffer :=
  spritePass s (ctrlSpriteHeight s.ctrl) pat (bgPass c s pat s.fb)

/-- The events at the end of a frame: NmiRequest if enabled, then FramePresented (R297, R298). -/
def frameEvents (s : State) : List Event :=
  (if ctrlNmiEnable s.ctrl then [.nmiRequest] else []) ++ [.framePresented]

/-- One frame (R270). `S.vblank`, `S.fb` and the trace are all that a RENDER writes: the pattern fetch adds only diagnostics. -/
def renderFrame (c : NesRom) (s : State) : State :=
  let pf := patFetch c { s with vblank := false }
  { s with vblank := true, fb := renderFb c s pf.1, trace := pf.2.trace ++ frameEvents s }

/-- RENDER (R270), atomic. -/
def execRender (s : State) : Result := withCart s fun c => .next (renderFrame c s)

/-- ACKVIEW (R299). -/
def execAckview (s : State) : Result := withCart s fun _ => .next s.clearDirty

end Sys2Proof.Machine
end

