-- ==== Sys2Proof/Machine/Dispatch.lean ====
section
/-! DEFINITION. The meaning of each operation: one arm per constructor of Instr. -/

namespace Sys2Proof.Machine

def exec (i : Instr) (s : State) : Host.Outcome State Fault Refusal :=
  match i with
  | .rdRam x => Sys2Proof.Machine.execRdRam x s
  | .wrRam x d => Sys2Proof.Machine.execWrRam x d s
  | .prdChr x => Sys2Proof.Machine.execPrdChr x s
  | .pwrChr x d => Sys2Proof.Machine.execPwrChr x d s
  | .rdCtrl x => Sys2Proof.Machine.execRdCtrl x s
  | .rdMask x => Sys2Proof.Machine.execRdMask x s
  | .rdStatus x => Sys2Proof.Machine.execRdStatus x s
  | .rdOamaddr x => Sys2Proof.Machine.execRdOamaddr x s
  | .rdOamdata x => Sys2Proof.Machine.execRdOamdata x s
  | .rdScroll x => Sys2Proof.Machine.execRdScroll x s
  | .rdAddr x => Sys2Proof.Machine.execRdAddr x s
  | .rdData x => Sys2Proof.Machine.execRdData x s
  | .wrCtrl x d => Sys2Proof.Machine.execWrCtrl x d s
  | .wrMask x d => Sys2Proof.Machine.execWrMask x d s
  | .wrStatus x d => Sys2Proof.Machine.execWrStatus x d s
  | .wrOamaddr x d => Sys2Proof.Machine.execWrOamaddr x d s
  | .wrOamdata x d => Sys2Proof.Machine.execWrOamdata x d s
  | .wrScrollX x d => Sys2Proof.Machine.execWrScrollX x d s
  | .wrScrollY x d => Sys2Proof.Machine.execWrScrollY x d s
  | .wrAddrHi x d => Sys2Proof.Machine.execWrAddrHi x d s
  | .wrAddrLo x d => Sys2Proof.Machine.execWrAddrLo x d s
  | .wrData x d => Sys2Proof.Machine.execWrData x d s
  | .wrOamdma x d => Sys2Proof.Machine.execWrOamdma x d s
  | .rdApustat x => Sys2Proof.Machine.execRdApustat x s
  | .wrApu x d => Sys2Proof.Machine.execWrApu x d s
  | .rdJoy1 x => Sys2Proof.Machine.execRdJoy1 x s
  | .wrJoy1 x d => Sys2Proof.Machine.execWrJoy1 x d s
  | .rdJoy2 x => Sys2Proof.Machine.execRdJoy2 x s
  | .wrJoy2 x d => Sys2Proof.Machine.execWrJoy2 x d s
  | .rdOpen x => Sys2Proof.Machine.execRdOpen x s
  | .wrOpen x d => Sys2Proof.Machine.execWrOpen x d s
  | .rdCartlo x => Sys2Proof.Machine.execRdCartlo x s
  | .wrCartlo x d => Sys2Proof.Machine.execWrCartlo x d s
  | .rdPrg x => Sys2Proof.Machine.execRdPrg x s
  | .wrPrg x d => Sys2Proof.Machine.execWrPrg x d s
  | .vrdPal p => Sys2Proof.Machine.execVrdPal p s
  | .vwrPal p d => Sys2Proof.Machine.execVwrPal p d s
  | .vrdNtm p => Sys2Proof.Machine.execVrdNtm p s
  | .vwrNtm p d => Sys2Proof.Machine.execVwrNtm p d s
  | .vrdNt p => Sys2Proof.Machine.execVrdNt p s
  | .vwrNt p d => Sys2Proof.Machine.execVwrNt p d s
  | .vrdPat p => Sys2Proof.Machine.execVrdPat p s
  | .vwrPat p d => Sys2Proof.Machine.execVwrPat p d s
  | .reset => Sys2Proof.Machine.execReset s
  | .insert image => Sys2Proof.Machine.execInsert image s
  | .render => Sys2Proof.Machine.execRender s
  | .ackview => Sys2Proof.Machine.execAckview s

end Sys2Proof.Machine
end

