-- ==== Sys2Proof/Machine/Fetch.lean ====
section
/-! DEFINITION. Forming the decode key of a given operation and performing it (R102, R104, R170, R171), and giving the block an
operation by its key. -/

namespace Sys2Proof.Machine

/-- The decode key of an operation. A bus key needs the mapper, so there is none without a cartridge (R170, R171, R363); L is
`S.w` (R101, R114) and A the translated address. -/
def requestKey (s : State) : Request → Option Key
  | .read o a => s.cart.map fun c => .bus (busKey s.w false o (translate c a o) 0x00) a
  | .write o a d => s.cart.map fun c => .bus (busKey s.w true o (translate c a o) d) a
  | .host op image => some (.host op image)

/-- Performs the operation a key decodes to. -/
def runKey (k : Key) (s : State) : Result :=
  match decodeKey k with
  | .instr i => if i.wellFormed then exec i s else .refused .illFormed
  | .rejected r => .refused (.undecodable r)

/-- Performs a given operation: `BusRead`, `BusWrite` or a host operation. -/
def runRequest (r : Request) (s : State) : Result :=
  match requestKey s r with
  | some k => runKey k s
  | none => .refused .noCartridge

/-- The cartridge INSERT makes of a 16-byte image with no PRG and no CHR: NROM, Horizontal (R140; 95_test_vectors.md I12). -/
def emptyCart : NesRom where
  header               := [0x4E, 0x45, 0x53, 0x1A, 0, 0, 0, 0, 0, 0, 0, 0, 0, 0, 0, 0]
  trainer              := none
  prg                  := []
  chr                  := []
  prgBankCount16K      := 0
  chrBankCount8K       := 0
  mapperId             := 0
  nametableArrangement := .horizontal

/-- The cartridge a bus key with address `a` needs: the inserted one if its mapper leaves `a` unchanged, else the empty one. -/
def cartFor (cart : Option NesRom) (a : Addr) (o : Origin) : NesRom :=
  match cart with
  | some c => if translate c a o = a then c else emptyCart
  | none => emptyCart

/-- The CPU address of the data port (R64, R207, R219). -/
def dataPort : Addr := 0x2007

/-- `s` with the operation of a key given next. Beside the operation it sets what that key takes from the state: the latch is the
key's L, and a cartridge is present where the operation needs one. A VRAM key is never given itself (R100): what is given is the
data-port transaction that performs its row, with the key's address in `S.v` (R207, R219; notes/assumptions/10.md). -/
def State.withKey (s : State) : Key → State
  | .bus k _ =>
    { s with
      w := busKeyL k
      cart := some (cartFor s.cart (busKeyA k) (busKeyO k))
      requests :=
        (if busKeyW k then .write (busKeyO k) (busKeyA k) (busKeyD k) else .read (busKeyO k) (busKeyA k)) :: s.requests }
  | .vram k =>
    { s with
      v := (vramKeyP k).setWidth 15
      cart := some (s.cart.getD emptyCart)
      requests := (if vramKeyW k then .write .cpu dataPort (vramKeyD k) else .read .cpu dataPort) :: s.requests }
  | .host op image =>
    { s with
      cart := if op = 0x2#4 ∨ op = 0x3#4 then some (s.cart.getD emptyCart) else s.cart
      requests := .host op image :: s.requests }

/-- `s` with the operation of a packet given next, or with no operation where the packet is no key. -/
def State.withPacket (s : State) (p : Format × List Byte) : State :=
  match parsePacket p.1 p.2 with
  | .ok k => s.withKey k
  | .error _ => { s with requests := [] }

end Sys2Proof.Machine
end

