-- ==== Sys2Proof/Machine/Step.lean ====
section
/-! DEFINITION. One step of the block: the next operation given to it is taken, its decode key formed and decoded, and its meaning
performed (R2, R20, R102, R170, R171, R381). Fetching is in Machine/Fetch.lean. -/

namespace Sys2Proof.Machine

/-- One step. -/
def step (s : State) : Host.Outcome State Fault Refusal :=
  match s.requests with
  | [] => .refused .noRequest
  | r :: rest => runRequest r { s with requests := rest }

/-- `s` with a table word's operation given next, so that the next step runs it (notes/assumptions/5.md). -/
def State.withFetchWord (s : State) (nbits w : Nat) : State := s.withPacket (tablePacket nbits w)

end Sys2Proof.Machine
end

