-- ==== Sys2Proof/Safety.lean ====
section
/-! DEFINITION. What a run is, what it may start from (R381, R382), and the invariant of the block's state. -/

namespace Sys2Proof.Safety

open Sys2Proof.Machine

/-- A run over the given operations: they are performed in order; a refusal ends it without an end state (R381). -/
def run : Nat → State → Result
  | 0, s => .next s
  | n + 1, s =>
    match step s with
    | .next s' => run n s'
    | .fault f => .fault f
    | .refused r => .refused r

/-- The end state of a run of a list of operations from `s` (R381). -/
def runOps (ops : List Request) (s : State) : Result := run ops.length { s with requests := ops }

/-- A parsed cartridge as INSERT leaves it (R43, R140): the record agrees with its header, and its mapper is supported (R148). -/
def cartOk (c : NesRom) : Bool :=
  decide (c.header.length = 16) &&
  decide (c.prg.length = 16384 * c.prgBankCount16K.toNat) &&
  decide (c.chr.length = 8192 * c.chrBankCount8K.toNat) &&
  decide (c.header.take 4 = headerMagic) &&
  decide (c.header.getD 4 0 = c.prgBankCount16K) &&
  decide (c.header.getD 5 0 = c.chrBankCount8K) &&
  decide (headerArrangement (c.header.getD 6 0) = c.nametableArrangement) &&
  decide (headerMapperId (c.header.getD 6 0) (c.header.getD 7 0) = c.mapperId) &&
  decide (c.mapperId ∈ Config.supportedMappers) &&
  (match c.trainer with
    | none => !headerHasTrainer (c.header.getD 6 0)
    | some tr => headerHasTrainer (c.header.getD 6 0) && decide (tr.length = 512))

/-- The palette cells `0x10`, `0x14`, `0x18`, `0x1C` that no rule ever writes (R40, R255). -/
def paletteFolds : List Nat := [0x10, 0x14, 0x18, 0x1C]

/-- The invariant: the four memories are in canonical form within their sizes (R38 to R41), the folded palette cells hold their
draw (R255), and an inserted cartridge is one INSERT makes (R43). -/
structure Inv (s : State) : Prop where
  ram   : s.ram.wf 2048 = true
  nt    : s.nt.wf 2048 = true
  pal   : s.pal.wf 32 = true
  oam   : s.oam.wf 256 = true
  folds : ∀ i ∈ paletteFolds, s.pal.read? i = none
  cart  : ∀ c, s.cart = some c → cartOk c = true

/-- `PowerOnState` (R382): every field of `S` as RESET leaves it, no cartridge, an empty trace. The other premises of R382 hold of
every State by its form: a refused operation has no next state (`NoRefusal`), State has no queue, pending DMA or pending NMI
(`NothingInFlight`), and the parameters are constants (`Config`). -/
def PowerOnState (s : State) : Prop :=
  s.ctrl = 0 ∧ s.mask = 0 ∧ s.vblank = false ∧ s.oamAddr = 0 ∧ s.scrollX = 0 ∧ s.scrollY = 0 ∧ s.v = 0 ∧ s.t = 0 ∧
  s.w = false ∧ s.ntDirty = false ∧ s.ram = [] ∧ s.nt = [] ∧ s.pal = [] ∧ s.oam = [] ∧ (∀ i, s.fbByte i = 0) ∧
  s.cart = none ∧ s.trace = []

end Sys2Proof.Safety
end

