-- ==== Sys2Proof/Certificates/Slice0/Obligations.lean ====
section
/-! DEFINITION. The statements for the provers, Obligations.<Name>, each over the model's own step, exec and decoder. The helpers of
namespace Sys2Proof.Spec write out what the rules of spec/ say, beside the model and not through its meanings. -/

namespace Sys2Proof.Spec

open Sys2Proof Sys2Proof.Machine

/-- The rows that do not depend on the latch: whatever L is, the key of the access decodes to `i` (R102, R114). -/
def selectedBy (w : Bool) (x : Access) (d : Byte) (i : Instr) : Prop :=
  ∀ l : Bool, decodeBusKey (busKey l w x.origin x.physical d) x.logical = some i

/-- A read answered `b` and changed nothing else. The replies are where the model returns a read's byte (notes/assumptions/1.md). -/
def answered (b : Byte) (s : State) : State := { s with replies := s.replies ++ [b] }

/-- One event was appended and nothing else changed. -/
def logged (e : Event) (s : State) : State := { s with trace := s.trace ++ [e] }

/-- The diagnostic of an access (R45, R320): the data byte is 0 on a read. -/
def diagOf (kind : DiagKind) (dir : Dir) (x : Access) (d : Byte) : Event :=
  .diag kind dir x.origin x.logical x.physical d

/-- The translated address lies in the PPU register window, with register index `n` (R64). -/
def inPort (x : Access) (n : Nat) : Prop :=
  0x2000 ≤ x.physical.toNat ∧ x.physical.toNat < 0x4000 ∧ (x.physical.toNat - 0x2000) % 8 = n

/-- A byte of a ROM region and what is logged when there is none (R153, R154). -/
def romOutcome (region : List Byte) (k : Nat) (x : Access) (s : State) : State :=
  if k < region.length then answered (region.getD k 0) s
  else answered 0x00 (logged (diagOf .unmappedAccess .r x 0x00) s)

/-- The physical table a nametable quadrant shows (R250). -/
def tableOf (arr : Arrangement) (q : Nat) : Nat :=
  match arr, q with
  | .vertical, 1 => 1
  | .vertical, 3 => 1
  | .horizontal, 2 => 1
  | .horizontal, 3 => 1
  | _, _ => 0

/-- The nametable store index of a PPU address in `[0x2000, 0x3F00)`, the mirror from `0x3000` on included (R250, R252). -/
def ntCell (c : NesRom) (p : PAddr) : Nat :=
  tableOf c.nametableArrangement (p.toNat / 0x400 % 4) * 0x400 + p.toNat % 0x400

/-- The palette store index of a PPU address in `[0x3F00, 0x4000)` (R254, R255). -/
def palCell (p : PAddr) : Nat :=
  if p.toNat % 32 ∈ [0x10, 0x14, 0x18, 0x1C] then p.toNat % 32 - 0x10 else p.toNat % 32

/-- The access of a data port address to pattern space (R247, R248). -/
def patternAccess (p : PAddr) : Access := { origin := .ppu, logical := p.setWidth 16, physical := p.setWidth 16 }

/-- The byte at a PPU address (R247, R251, R252, R256). -/
def vramByte (c : NesRom) (s : State) (p : PAddr) : Byte :=
  if p.toNat < 0x2000 then c.chr.getD p.toNat 0
  else if p.toNat < 0x3F00 then s.ntByte (ntCell c p)
  else s.palByte (palCell p)

/-- What reading a PPU address logs (R247). -/
def vramReadEvents (c : NesRom) (p : PAddr) : List Event :=
  if p.toNat < 0x2000 ∧ c.chr.length ≤ p.toNat then [diagOf .unmappedAccess .r (patternAccess p) 0x00] else []

/-- `t` is `s` after the byte `d` is written at a PPU address: which store it goes to, what every byte of both stores reads as
then, and what is logged (R248, R253, R257, R258). -/
def VramWritten (c : NesRom) (p : PAddr) (d : Byte) (s t : State) : Prop :=
  (p.toNat < 0x2000 → t = logged (diagOf .readOnlyRegionWrite .w (patternAccess p) d) s) ∧
  (0x2000 ≤ p.toNat → p.toNat < 0x3F00 →
    t = { s with nt := t.nt } ∧ ∀ i, t.ntByte i = if i = ntCell c p then d else s.ntByte i) ∧
  (0x3F00 ≤ p.toNat → t = { s with pal := t.pal } ∧ ∀ i, t.palByte i = if i = palCell p then d else s.palByte i)

/-- The data port's increment (R24, R245). -/
def increment (s : State) : VAddr := if s.ctrl.getLsbD 2 = true then 32 else 1

/-- CPU-origin reads of the addresses in order, each through its own row: `t` is the state after them and `bs` the bytes they
answered; the replies are the surrounding operation's affair (R170, R178). -/
def ReadsInOrder (c : NesRom) : List Addr → State → List Byte → State → Prop
  | [], s, bs, t => bs = [] ∧ t = s
  | a :: as, s, bs, t =>
    ∃ i u b bs', decodeBusKey (busKey s.w false .cpu (translate c a .cpu) 0x00) a = some i ∧ exec i s = .next u ∧
      u.replies = s.replies ++ [b] ∧ bs = b :: bs' ∧ ReadsInOrder c as { u with replies := s.replies } bs' t

/-! The picture, pixel by pixel (R273 to R295). -/

/-- The colour index of pixel (row, col) of a tile, from CHR (R272, R273). -/
def tileIndex (c : NesRom) (table tile row col : Nat) : Nat :=
  let base := table * 0x1000 + tile * 16 + row
  (c.chr.getD base 0).toNat / 2 ^ (7 - col) % 2 + 2 * ((c.chr.getD (base + 8) 0).toNat / 2 ^ (7 - col) % 2)

/-- The colour a palette cell selects (R281, R293). -/
def colour (s : State) (cell : Nat) : Rgb := Config.masterPalette ((s.palByte cell).setWidth 6)

/-- Tile column and horizontal nametable bit under screen column `x` (R276, R277). -/
def bgColumn (s : State) (x : Nat) : Nat × Nat :=
  let p := s.scrollX.toNat + x
  (p / 8 % 32, (s.t.toNat / 0x400 + p / 256) % 2)

/-- Tile row and vertical nametable bit under screen row `y`: below scroll 240 the walk wraps at row 30 and toggles the bit; from 240
on it starts in the attribute area and wraps at row 32 without toggling (R276, R278). -/
def bgRow (s : State) (y : Nat) : Nat × Nat :=
  let p := s.scrollY.toNat + y
  if s.scrollY.toNat < 240 then (p / 8 % 30, (s.t.toNat / 0x800 + p / 240) % 2)
  else (p / 8 % 32, s.t.toNat / 0x800 % 2)

/-- The background colour of pixel (x, y) (R275 to R282). -/
def bgPixelColour (c : NesRom) (s : State) (x y : Nat) : Rgb :=
  let tx := (bgColumn s x).1
  let ty := (bgRow s y).1
  let base := tableOf c.nametableArrangement (2 * (bgRow s y).2 + (bgColumn s x).2) * 0x400
  let tile := (s.ntByte (base + 32 * ty + tx)).toNat
  let attr := (s.ntByte (base + 0x3C0 + ty / 4 * 8 + tx / 4)).toNat
  let sel := attr / 2 ^ (ty / 2 % 2 * 4 + tx / 2 % 2 * 2) % 4
  let ci := tileIndex c (s.ctrl.toNat / 16 % 2) tile ((s.scrollY.toNat + y) % 8) ((s.scrollX.toNat + x) % 8)
  colour s (if ci = 0 then 0 else 4 * sel + ci)

/-- The sprite height (R27). -/
def spriteHeight (s : State) : Nat := if s.ctrl.getLsbD 5 = true then 16 else 8

/-- Entry `i` is in range of evaluation line `line` (R283). -/
def onLine (s : State) (line i : Nat) : Bool :=
  decide ((s.oamByte (4 * i)).toNat ≤ line) && decide (line < (s.oamByte (4 * i)).toNat + spriteHeight s)

/-- The entries evaluated on a line: the first eight in range, in ascending order (R284). -/
def candidates (s : State) (line : Nat) : List Nat := ((List.range 64).filter (onLine s line)).take 8

/-- The colour index of pixel (x, y) of entry `i`, 0 where it has none or is transparent (R290, R291, R292, R294). -/
def spriteIndexAt (c : NesRom) (s : State) (i x y : Nat) : Nat :=
  let tile := (s.oamByte (4 * i + 1)).toNat
  let attr := s.oamByte (4 * i + 2)
  let left := (s.oamByte (4 * i + 3)).toNat
  let r := y - 1 - (s.oamByte (4 * i)).toNat
  let row := if attr.getLsbD 7 = true then spriteHeight s - 1 - r else r
  let col := if attr.getLsbD 6 = true then 7 - (x - left) else x - left
  if x < left ∨ left + 8 ≤ x then 0
  else if s.ctrl.getLsbD 5 = true then tileIndex c (tile % 2) (tile / 2 * 2 + row / 8) (row % 8) col
  else tileIndex c (s.ctrl.toNat / 8 % 2) tile row col

/-- The sprite colour of pixel (x, y): the lowest-numbered candidate of the line before that is opaque there (R285, R286, R295). -/
def spritePixelColour (c : NesRom) (s : State) (x y : Nat) : Option Rgb :=
  if y = 0 then none
  else (candidates s (y - 1)).findSome? fun i =>
    if spriteIndexAt c s i x y = 0 then none
    else some (colour s (0x10 + 4 * ((s.oamByte (4 * i + 2)).toNat % 4) + spriteIndexAt c s i x y))

/-- Pixel (x, y) of the framebuffer (R42). -/
def pixel (s : State) (x y : Nat) : Rgb :=
  { red := s.fbByte (3 * (256 * y + x)), green := s.fbByte (3 * (256 * y + x) + 1), blue := s.fbByte (3 * (256 * y + x) + 2) }

/-- The diagnostics of a pattern fetch: one for each of the 8192 addresses CHR has no byte at, ascending (R272). -/
def fetchEvents (c : NesRom) : List Event :=
  ((List.range 8192).filter fun k => decide (c.chr.length ≤ k)).map fun k =>
    diagOf .unmappedAccess .r { origin := .ppu, logical := BitVec.ofNat 16 k, physical := BitVec.ofNat 16 k } 0x00

end Sys2Proof.Spec

section Statements

open Sys2Proof Sys2Proof.Machine Sys2Proof.Spec

/-! Reset and power-on. -/

/-- R361: the power-on state is what RESET makes of any state, without a cartridge and with an empty trace; a RESET issued first
changes nothing but the draws of the four memories. The last four fields are the model's own (notes/assumptions/1.md, 4.md); which
draw RESET takes, and that it is used up, is the model's (4.md, 7.md). RESET and its values are the spec's own (decision D41). -/
def Obligations.PowerOnIsResetOfAnyState : Prop :=
  (∀ s : State, ∃ t, exec .reset s = .next t ∧
    State.reset = { t with
      cart := none, trace := [], powerOn := State.reset.powerOn, draws := State.reset.draws, replies := [], requests := [] }) ∧
  exec .reset State.reset =
    .next { State.reset with powerOn := State.reset.draws, draws := State.reset.draws + 1 }

/-- R360: what RESET writes, with or without a cartridge. The draw the four memories hold has an index, the model's own
(notes/assumptions/4.md); the bytes hold for every draw. That the replies and the requests stay is the model's choice
(notes/assumptions/8.md). RESET and its values are the spec's own (decisions D39 to D43). -/
def Obligations.ResetSetsEveryFieldButCartAndTrace : Prop :=
  (∀ img, decodeKey (.host 0 img) = .instr .reset) ∧
  ∀ s : State, ∃ t, exec .reset s = .next t ∧
    t.ctrl = 0x00 ∧ t.mask = 0x00 ∧ t.vblank = false ∧ t.oamAddr = 0x00 ∧ t.scrollX = 0x00 ∧ t.scrollY = 0x00 ∧
    t.v = 0x0000 ∧ t.t = 0x0000 ∧ t.w = false ∧ t.ntDirty = false ∧ (∀ i, i < 184320 → t.fbByte i = 0x00) ∧
    (∀ i, i < 2048 → t.ramByte i = Config.powerOnRam t.powerOn i) ∧
    (∀ i, i < 2048 → t.ntByte i = Config.powerOnNt t.powerOn i) ∧
    (∀ i, i < 32 → t.palByte i = Config.powerOnPal t.powerOn i) ∧
    (∀ i, i < 256 → t.oamByte i = Config.powerOnOam t.powerOn i) ∧
    t.cart = s.cart ∧ t.trace = s.trace ∧ t.replies = s.replies ∧ t.requests = s.requests

/-! Decoding and encoding. -/

/-- R102: the key of a transaction carries the latch, the origin and the translated address; some row matches every key, and the
first that does is the one decoded. -/
def Obligations.BusDecodeIsTotalAndFirstMatch : Prop :=
  (∀ (s : State) (c : NesRom) (o : Origin) (a : Addr) (d : Byte), s.cart = some c →
    requestKey s (.read o a) = some (.bus (busKey s.w false o (translate c a o) 0x00) a) ∧
    requestKey s (.write o a d) = some (.bus (busKey s.w true o (translate c a o) d) a)) ∧
  ∀ (k : BitVec 27) (lg : Addr), ∃ (n : Nat) (row : BusRow), busTable[n]? = some row ∧ k &&& row.mask = row.value ∧
    (∀ (m : Nat) (r : BusRow), m < n → busTable[m]? = some r → k &&& r.mask ≠ r.value) ∧
    decodeBusKey k lg =
      some (row.build { origin := busKeyO k, logical := lg, physical := k.extractLsb' 8 16 } (k.extractLsb' 0 8))

/-- R103: the fields of a VRAM key, and that every VRAM key decodes, to the row of its region: palette, nametable mirror, nametable,
pattern. R100: no operation given has a VRAM key. R207, R219, R240, R241, R245, R246: a data port access runs the row of the key of
`S.v[13:0]`, then the increment; that exec of the row alone, its reply included, is what it runs is the model's reading
(notes/assumptions/10.md), and the 14 bits (R242) are the spec's own, marked [from general knowledge, not in source]. -/
def Obligations.VramDecodeByRegion : Prop :=
  (∀ (w : Bool) (p : PAddr) (d : Byte),
    (vramKey w p d).getLsbD 22 = w ∧ (vramKey w p d).extractLsb' 8 14 = p ∧ (vramKey w p d).extractLsb' 0 8 = d) ∧
  (∀ (s : State) (r : Request) (k : Key), requestKey s r = some k → k.format ≠ .vram) ∧
  (∀ (s : State) (c : NesRom) (x : Access) (d : Byte), s.cart = some c →
    (∃ i u, decodeVramKey (vramKey false (s.v.setWidth 14) 0x00) = some i ∧ exec i s = .next u ∧
      exec (.rdData x) s = .next { u with v := u.v + increment s }) ∧
    ∃ i u, decodeVramKey (vramKey true (s.v.setWidth 14) d) = some i ∧ exec i s = .next u ∧
      exec (.wrData x d) s = .next { u with ntDirty := true, v := u.v + increment s }) ∧
  ∀ k : BitVec 23,
    let p : PAddr := k.extractLsb' 8 14
    let d : Byte := k.extractLsb' 0 8
    decodeVramKey k = some (
      if k.getLsbD 22 = true then
        if 0x3F00 ≤ p.toNat then .vwrPal p d else if 0x3000 ≤ p.toNat then .vwrNtm p d
        else if 0x2000 ≤ p.toNat then .vwrNt p d else .vwrPat p d
      else
        if 0x3F00 ≤ p.toNat then .vrdPal p else if 0x3000 ≤ p.toNat then .vrdNtm p
        else if 0x2000 ≤ p.toNat then .vrdNt p else .vrdPat p)

/-- R104, R118: codes 0 to 3 are the host operations; 4 to 15 are reserved and refused. -/
def Obligations.HostCodesAndReservedRefused : Prop :=
  (∀ img : List Byte, decodeKey (.host 0 img) = .instr .reset ∧ decodeKey (.host 1 img) = .instr (.insert img) ∧
    decodeKey (.host 2 img) = .instr .render ∧ decodeKey (.host 3 img) = .instr .ackview) ∧
  ∀ (s : State) (rest : List Request) (op : BitVec 4) (img : List Byte), 4 ≤ op.toNat → s.requests = .host op img :: rest →
    step s = .refused (.undecodable (.reservedHostOp op))

/-- R120, the BUS rows of the opcode map, and R114: only writes to register indices 5 and 6 look at L. -/
def Obligations.BusOpcodeMap : Prop :=
  ∀ (l w : Bool) (x : Access) (d : Byte),
    let a := x.physical.toNat
    decodeBusKey (busKey l w x.origin x.physical d) x.logical = some (
      if a < 0x2000 then
        match w, x.origin with
        | false, .cpu => .rdRam x
        | true, .cpu => .wrRam x d
        | false, .ppu => .prdChr x
        | true, .ppu => .pwrChr x d
      else if a < 0x4000 then
        match w, a % 8 with
        | false, 0 => .rdCtrl x
        | false, 1 => .rdMask x
        | false, 2 => .rdStatus x
        | false, 3 => .rdOamaddr x
        | false, 4 => .rdOamdata x
        | false, 5 => .rdScroll x
        | false, 6 => .rdAddr x
        | false, _ => .rdData x
        | true, 0 => .wrCtrl x d
        | true, 1 => .wrMask x d
        | true, 2 => .wrStatus x d
        | true, 3 => .wrOamaddr x d
        | true, 4 => .wrOamdata x d
        | true, 5 => if l = true then .wrScrollY x d else .wrScrollX x d
        | true, 6 => if l = true then .wrAddrLo x d else .wrAddrHi x d
        | true, _ => .wrData x d
      else if a < 0x4020 then
        match w, a with
        | true, 0x4014 => .wrOamdma x d
        | false, 0x4015 => .rdApustat x
        | true, 0x4015 => .wrApu x d
        | false, 0x4016 => .rdJoy1 x
        | true, 0x4016 => .wrJoy1 x d
        | false, 0x4017 => .rdJoy2 x
        | true, 0x4017 => .wrJoy2 x d
        | false, _ => .rdOpen x
        | true, _ => .wrOpen x d
      else if a < 0x8000 then (if w = true then .wrCartlo x d else .rdCartlo x)
      else (if w = true then .wrPrg x d else .rdPrg x))

/-- Decode and encode agree on every well-formed operation, with every operand at every value. The bytes of a packet are the model's
own layout (notes/assumptions/2.md); the keys in them are R101, R103 and R104. -/
def Obligations.DecodeOfEncodeIsIdentity : Prop :=
  ∀ i : Instr, i.wellFormed = true → decode (encode i).1 (encode i).2 = .instr i

/-- The other direction for bus transactions: the key decoded is the key encoded, but for L where no row looks at it (R101, R114). -/
def Obligations.EncodeOfDecodeKeepsBusKey : Prop :=
  ∀ (l w : Bool) (o : Origin) (a lg : Addr) (d : Byte), (w = false → d = 0) →
    ∃ i, decodeBusKey (busKey l w o a d) lg = some i ∧
      encodeKey i = .bus (busKey (l && w && decide (0x2000 ≤ a.toNat ∧ a.toNat < 0x4000 ∧ (a.toNat % 8 = 5 ∨ a.toNat % 8 = 6)))
        w o a d) lg

/-- Every operation given to the block, and every VRAM key, decodes to a well-formed operation (R115, R116, R151). -/
def Obligations.GivenOperationsAreWellFormed : Prop :=
  (∀ (s : State) (r : Request) (k : Key) (i : Instr), requestKey s r = some k → decodeKey k = .instr i → i.wellFormed = true) ∧
  ∀ (k : BitVec 23) (i : Instr), decodeVramKey k = some i → i.wellFormed = true

/-- R121: the worked encodings. -/
def Obligations.WorkedEncodings : Prop :=
  busKey false true .cpu 0x2006 0x21 = 0x2200621#27 ∧ 0x2200621#27 &&& 0x6E00700#27 = 0x2200600#27 ∧
  decodeBusKey 0x2200621#27 0x2006 = some (.wrAddrHi ⟨.cpu, 0x2006, 0x2006⟩ 0x21) ∧
  busKey false false .cpu 0x2002 0x00 = 0x0200200#27 ∧
  decodeBusKey 0x0200200#27 0x2002 = some (.rdStatus ⟨.cpu, 0x2002, 0x2002⟩) ∧
  busKey false true .cpu 0x4014 0x02 = 0x2401402#27 ∧
  decodeBusKey 0x2401402#27 0x4014 = some (.wrOamdma ⟨.cpu, 0x4014, 0x4014⟩ 0x02) ∧
  busKey false false .cpu 0x4014 0x00 = 0x0401400#27 ∧
  decodeBusKey 0x0401400#27 0x4014 = some (.rdOpen ⟨.cpu, 0x4014, 0x4014⟩) ∧
  busKey false false .cpu 0x4020 0x00 = 0x0402000#27 ∧
  decodeBusKey 0x0402000#27 0x4020 = some (.rdCartlo ⟨.cpu, 0x4020, 0x4020⟩)

/-! Steps. -/

/-- A step runs the decoded operation: the first operation given is taken, its key formed and decoded, and exec run on the state
with that operation taken (R20, R381). -/
def Obligations.StepRunsDecodedOperation : Prop :=
  ∀ (s : State) (r : Request) (rest : List Request) (k : Key) (i : Instr), s.requests = r :: rest →
    requestKey { s with requests := rest } r = some k → decodeKey k = .instr i → i.wellFormed = true →
    step s = exec i { s with requests := rest }

/-- R170, R171: a bus transaction translates its address, takes the row its key selects and runs it; without a cartridge it is
refused. -/
def Obligations.BusTransactionRunsItsRow : Prop :=
  ∀ (s : State) (rest : List Request) (o : Origin) (a : Addr) (d : Byte),
    (s.cart = none →
      step { s with requests := .read o a :: rest } = .refused .noCartridge ∧
      step { s with requests := .write o a d :: rest } = .refused .noCartridge) ∧
    (∀ c, s.cart = some c →
      (∃ i, decodeBusKey (busKey s.w false o (translate c a o) 0x00) a = some i ∧
        step { s with requests := .read o a :: rest } = exec i { s with requests := rest }) ∧
      ∃ i, decodeBusKey (busKey s.w true o (translate c a o) d) a = some i ∧
        step { s with requests := .write o a d :: rest } = exec i { s with requests := rest })

/-- R11, R362, R363: without a cartridge every operation but RESET and INSERT is refused; those two are accepted. R363 names bus
transactions, RENDER and ACKVIEW; that the eight VRAM rows, which no step is given, are refused too is read from R11 and R362, which
speak of every operation (notes/assumptions/10.md). -/
def Obligations.NoCartridgeRefusesAllButResetAndInsert : Prop :=
  ∀ s : State, s.cart = none →
    (∀ i : Instr, i ≠ .reset → (∀ img, i ≠ .insert img) → exec i s = .refused .noCartridge) ∧
    (∃ t, exec .reset s = .next t) ∧ ∀ img, ∃ t, exec (.insert img) s = .next t

/-- With a cartridge every operation given, a bus transaction or a host operation, completes: no key is illegal and none traps
(R115, R340); only a reserved host code does not. The eight VRAM rows, which no step is given (notes/assumptions/10.md), are in
VramReadRows and VramWriteRows. -/
def Obligations.EveryOperationCompletesWithCartridge : Prop :=
  ∀ (s : State) (r : Request) (rest : List Request) (c : NesRom), s.requests = r :: rest → s.cart = some c →
    (∀ op img, r = .host op img → op.toNat < 4) → ∃ t, step s = .next t

/-! Invariant. -/

/-- The invariant holds after power-on. -/
def Obligations.InvariantAtReset : Prop := Safety.Inv State.reset

/-- Every step keeps the invariant: the four memories stay in canonical form inside their sizes (R38 to R41), the folded palette cells
are never written (R255), and the cartridge is one INSERT made (R43, R140). -/
def Obligations.StepKeepsInvariant : Prop :=
  ∀ s s' : State, Safety.Inv s → step s = .next s' → Safety.Inv s'

/-! Internal RAM and the cartridge space. -/

/-- R172, R173: an internal RAM read answers the byte, a write stores one byte. -/
def Obligations.RamReadAndWrite : Prop :=
  ∀ (s : State) (c : NesRom) (x : Access) (d : Byte), s.cart = some c → x.origin = .cpu → x.physical.toNat < 0x2000 →
    (selectedBy false x 0x00 (.rdRam x) ∧
      exec (.rdRam x) s = .next (answered (s.ramByte (x.physical.toNat % 0x0800)) s)) ∧
    selectedBy true x d (.wrRam x d) ∧
    ∃ t, exec (.wrRam x d) s = .next t ∧ t = { s with ram := t.ram } ∧
      ∀ i, t.ramByte i = if i = x.physical.toNat % 0x0800 then d else s.ramByte i

/-- R63: the four mirrors name one cell, and no other address does. -/
def Obligations.RamMirrorsAreOneCell : Prop :=
  ∀ (s : State) (c : NesRom) (x y : Access) (d : Byte), s.cart = some c → x.origin = .cpu → x.physical.toNat < 0x2000 →
    y.origin = .cpu → y.physical.toNat < 0x2000 →
    ∃ t, exec (.wrRam x d) s = .next t ∧
      exec (.rdRam y) t = .next (answered
        (if y.physical.toNat % 0x0800 = x.physical.toNat % 0x0800 then d else s.ramByte (y.physical.toNat % 0x0800)) t)

/-- R174, R153, R175: below `0x2000` a PPU-origin read is a CHR read, and a PPU-origin write is dropped with IllegalPpuWrite. -/
def Obligations.PpuOriginBelow2000 : Prop :=
  ∀ (s : State) (c : NesRom) (x : Access) (d : Byte), s.cart = some c → x.origin = .ppu → x.physical.toNat < 0x2000 →
    (selectedBy false x 0x00 (.prdChr x) ∧
      exec (.prdChr x) s = .next (romOutcome c.chr x.physical.toNat x s)) ∧
    selectedBy true x d (.pwrChr x d) ∧
    exec (.pwrChr x d) s = .next (logged (diagOf .illegalPpuWrite .w x d) s)

/-- R177: a PRG read; past the end of PRG it answers 0 with a diagnostic. -/
def Obligations.PrgRead : Prop :=
  ∀ (s : State) (c : NesRom) (x : Access), s.cart = some c → 0x8000 ≤ x.physical.toNat →
    selectedBy false x 0x00 (.rdPrg x) ∧
    exec (.rdPrg x) s = .next (romOutcome c.prg (x.physical.toNat - 0x8000) x s)

/-- R176, R184: reads of the open bus and of the cartridge space below PRG answer 0 with UnmappedAccess. -/
def Obligations.UnmappedReadsAnswerZero : Prop :=
  ∀ (s : State) (c : NesRom) (x : Access), s.cart = some c →
    (0x4000 ≤ x.physical.toNat → x.physical.toNat < 0x4020 → x.physical.toNat ∉ [0x4015, 0x4016, 0x4017] →
      selectedBy false x 0x00 (.rdOpen x) ∧
      exec (.rdOpen x) s = .next (answered 0x00 (logged (diagOf .unmappedAccess .r x 0x00) s))) ∧
    (0x4020 ≤ x.physical.toNat → x.physical.toNat < 0x8000 →
      selectedBy false x 0x00 (.rdCartlo x) ∧
      exec (.rdCartlo x) s = .next (answered 0x00 (logged (diagOf .unmappedAccess .r x 0x00) s)))

/-- R185, R186, R187: writes to the open bus are dropped with UnmappedAccess, writes to cartridge space with
ReadOnlyRegionWrite. -/
def Obligations.DroppedWritesOnlyLog : Prop :=
  ∀ (s : State) (c : NesRom) (x : Access) (d : Byte), s.cart = some c →
    (0x4000 ≤ x.physical.toNat → x.physical.toNat < 0x4020 → x.physical.toNat ∉ [0x4014, 0x4015, 0x4016, 0x4017] →
      selectedBy true x d (.wrOpen x d) ∧
      exec (.wrOpen x d) s = .next (logged (diagOf .unmappedAccess .w x d) s)) ∧
    (0x4020 ≤ x.physical.toNat → x.physical.toNat < 0x8000 →
      selectedBy true x d (.wrCartlo x d) ∧
      exec (.wrCartlo x d) s = .next (logged (diagOf .readOnlyRegionWrite .w x d) s)) ∧
    (0x8000 ≤ x.physical.toNat →
      selectedBy true x d (.wrPrg x d) ∧
      exec (.wrPrg x d) s = .next (logged (diagOf .readOnlyRegionWrite .w x d) s))

/-- R151: NROM's translation. R151 is for mapper id 0; that every record is translated so, whatever its mapper id, is the model's
reading (notes/assumptions/17.md). -/
def Obligations.NromTranslation : Prop :=
  ∀ (c : NesRom) (a : Addr) (o : Origin),
    (translate c a o).toNat =
      (if o = .cpu ∧ 0xC000 ≤ a.toNat ∧ a.toNat ≤ 0xFFFF ∧ c.prgBankCount16K = 1 then a.toNat - 0x4000 else a.toNat)

/-- R177, R151: on a one-bank cartridge a CPU read of `0xC000 + k` answers what a read of `0x8000 + k` answers, byte k of PRG, and
changes nothing else. -/
def Obligations.OneBankPrgMirror : Prop :=
  ∀ (s : State) (c : NesRom) (rest : List Request) (k : Nat), s.cart = some c → c.prgBankCount16K = 1 →
    c.prg.length = 16384 → k < 0x4000 → ∃ b, c.prg[k]? = some b ∧
    step { s with requests := .read .cpu (BitVec.ofNat 16 (0xC000 + k)) :: rest } =
      .next (answered b { s with requests := rest }) ∧
    step { s with requests := .read .cpu (BitVec.ofNat 16 (0x8000 + k)) :: rest } =
      .next (answered b { s with requests := rest })

/-! OAM-DMA and the collaborators. -/

/-- R178: 256 CPU-origin reads of the page in ascending order, each by its own row, then OAM byte i takes byte i; no other field
than the reads write changes. -/
def Obligations.OamDmaReadsThenCopies : Prop :=
  ∀ (s : State) (c : NesRom) (x : Access) (d : Byte), s.cart = some c → x.physical = 0x4014 →
    selectedBy true x d (.wrOamdma x d) ∧
    ∃ bs u t, ReadsInOrder c ((List.range 256).map fun i => BitVec.ofNat 16 (d.toNat * 0x100 + i)) s bs u ∧ bs.length = 256 ∧
      exec (.wrOamdma x d) s = .next t ∧ t = { u with oam := t.oam } ∧
      ∀ i, t.oamByte i = if i < 256 then bs.getD i 0 else u.oamByte i

/-- R178 for pages of internal RAM: OAM byte i is the RAM byte of the page, and nothing else changes, the OAM address included. -/
def Obligations.OamDmaFromRamPage : Prop :=
  ∀ (s : State) (c : NesRom) (x : Access) (d : Byte), s.cart = some c → d.toNat < 0x20 →
    ∃ t, exec (.wrOamdma x d) s = .next t ∧ t = { s with oam := t.oam } ∧
      ∀ i, i < 256 → t.oamByte i = s.ramByte (d.toNat % 8 * 0x100 + i)

/-- R179, R180, R181: the collaborators' reads answer a draw, 0 for an absent controller, and change no field of `S`. The draw is an
opaque constant at the next draw index, which is used up (notes/assumptions/4.md). -/
def Obligations.CollaboratorReads : Prop :=
  ∀ (s : State) (c : NesRom) (x : Access), s.cart = some c →
    (x.physical = 0x4015 → selectedBy false x 0x00 (.rdApustat x) ∧
      exec (.rdApustat x) s = .next (answered (Config.apuStatus s.draws) { s with draws := s.draws + 1 })) ∧
    (x.physical = 0x4016 → selectedBy false x 0x00 (.rdJoy1 x) ∧
      exec (.rdJoy1 x) s =
        .next (answered (if Config.inputPresent = true then Config.joy1 s.draws else 0x00) { s with draws := s.draws + 1 })) ∧
    (x.physical = 0x4017 → selectedBy false x 0x00 (.rdJoy2 x) ∧
      exec (.rdJoy2 x) s =
        .next (answered (if Config.inputPresent = true then Config.joy2 s.draws else 0x00) { s with draws := s.draws + 1 }))

/-- R182, R183, R188: the collaborators' writes are events. -/
def Obligations.CollaboratorWrites : Prop :=
  ∀ (s : State) (c : NesRom) (x : Access) (d : Byte), s.cart = some c →
    (x.physical = 0x4015 → selectedBy true x d (.wrApu x d) ∧ exec (.wrApu x d) s = .next (logged (.apuWrite 0x4015 d) s)) ∧
    (x.physical = 0x4016 → selectedBy true x d (.wrJoy1 x d) ∧ exec (.wrJoy1 x d) s = .next (logged (.inputWrite 0x4016 d) s)) ∧
    (x.physical = 0x4017 → selectedBy true x d (.wrJoy2 x d) ∧ exec (.wrJoy2 x d) s = .next (logged (.inputWrite 0x4017 d) s))

/-! PPU register ports. -/

/-- R200, R201, R203, R205, R206: the write-only registers read as 0, with no side effect. -/
def Obligations.WriteOnlyPortsReadZero : Prop :=
  ∀ (s : State) (c : NesRom) (x : Access), s.cart = some c →
    (inPort x 0 → selectedBy false x 0x00 (.rdCtrl x) ∧ exec (.rdCtrl x) s = .next (answered 0x00 s)) ∧
    (inPort x 1 → selectedBy false x 0x00 (.rdMask x) ∧ exec (.rdMask x) s = .next (answered 0x00 s)) ∧
    (inPort x 3 → selectedBy false x 0x00 (.rdOamaddr x) ∧ exec (.rdOamaddr x) s = .next (answered 0x00 s)) ∧
    (inPort x 5 → selectedBy false x 0x00 (.rdScroll x) ∧ exec (.rdScroll x) s = .next (answered 0x00 s)) ∧
    (inPort x 6 → selectedBy false x 0x00 (.rdAddr x) ∧ exec (.rdAddr x) s = .next (answered 0x00 s))

/-- R202: the status byte is the flag before the clear; the latch and the flag are cleared (bit position and clear: the spec's decisions
D7, D9). -/
def Obligations.StatusRead : Prop :=
  ∀ (s : State) (c : NesRom) (x : Access), s.cart = some c → inPort x 2 →
    selectedBy false x 0x00 (.rdStatus x) ∧
    exec (.rdStatus x) s =
      .next (answered (if s.vblank = true then 0x80 else 0x00) { s with w := false, vblank := false })

/-- R204: OAM data read, with no increment. -/
def Obligations.OamDataRead : Prop :=
  ∀ (s : State) (c : NesRom) (x : Access), s.cart = some c → inPort x 4 →
    selectedBy false x 0x00 (.rdOamdata x) ∧
    exec (.rdOamdata x) s = .next (answered (s.oamByte s.oamAddr.toNat) s)

/-- R207, R242, R245: the data port's read, by region, and the increment. The address's 14 bits (R242), the nametable mirror (R252) and
the palette alias (R255) are the spec's own, marked [from general knowledge, not in source]. -/
def Obligations.DataPortRead : Prop :=
  ∀ (s : State) (c : NesRom) (x : Access), s.cart = some c → inPort x 7 →
    selectedBy false x 0x00 (.rdData x) ∧
    let p : PAddr := s.v.setWidth 14
    exec (.rdData x) s =
      .next (answered (vramByte c s p) { s with v := s.v + increment s, trace := s.trace ++ vramReadEvents c p })

/-- R210: control write. No NmiRequest is emitted, whatever bit 7 and the flag are. -/
def Obligations.CtrlWrite : Prop :=
  ∀ (s : State) (c : NesRom) (x : Access) (d : Byte), s.cart = some c → inPort x 0 →
    selectedBy true x d (.wrCtrl x d) ∧
    ∃ t' : VAddr, exec (.wrCtrl x d) s = .next { s with ctrl := d, t := t' } ∧
      t'.extractLsb' 10 2 = d.extractLsb' 0 2 ∧ t'.extractLsb' 0 10 = s.t.extractLsb' 0 10 ∧
      t'.extractLsb' 12 3 = s.t.extractLsb' 12 3

/-- R211, R212, R213: mask and OAM address are stored whole; a write to the status register does nothing. -/
def Obligations.MaskStatusOamAddrWrites : Prop :=
  ∀ (s : State) (c : NesRom) (x : Access) (d : Byte), s.cart = some c →
    (inPort x 1 → selectedBy true x d (.wrMask x d) ∧ exec (.wrMask x d) s = .next { s with mask := d }) ∧
    (inPort x 2 → selectedBy true x d (.wrStatus x d) ∧ exec (.wrStatus x d) s = .next s) ∧
    (inPort x 3 → selectedBy true x d (.wrOamaddr x d) ∧ exec (.wrOamaddr x d) s = .next { s with oamAddr := d })

/-- R214: OAM data write, and the address wrapping mod 256. -/
def Obligations.OamDataWrite : Prop :=
  ∀ (s : State) (c : NesRom) (x : Access) (d : Byte), s.cart = some c → inPort x 4 →
    selectedBy true x d (.wrOamdata x d) ∧
    ∃ t, exec (.wrOamdata x d) s = .next t ∧
      t = { s with oam := t.oam, oamAddr := BitVec.ofNat 8 ((s.oamAddr.toNat + 1) % 256) } ∧
      ∀ i, t.oamByte i = if i = s.oamAddr.toNat then d else s.oamByte i

/-- R215, R216: the two forms of the scroll port, selected by the latch (the bits of `S.t`: the spec's decision D12). -/
def Obligations.ScrollWrites : Prop :=
  ∀ (s : State) (c : NesRom) (x : Access) (d : Byte), s.cart = some c → inPort x 5 →
    (decodeBusKey (busKey false true x.origin x.physical d) x.logical = some (.wrScrollX x d) ∧
      ∃ t' : VAddr, exec (.wrScrollX x d) s = .next { s with scrollX := d, t := t', w := true } ∧
        t'.extractLsb' 0 5 = d.extractLsb' 3 5 ∧ t'.extractLsb' 5 10 = s.t.extractLsb' 5 10) ∧
    (decodeBusKey (busKey true true x.origin x.physical d) x.logical = some (.wrScrollY x d) ∧
      ∃ t' : VAddr, exec (.wrScrollY x d) s = .next { s with scrollY := d, t := t', w := false } ∧
        t'.extractLsb' 5 5 = d.extractLsb' 3 5 ∧ t'.extractLsb' 12 3 = d.extractLsb' 0 3 ∧
        t'.extractLsb' 0 5 = s.t.extractLsb' 0 5 ∧ t'.extractLsb' 10 2 = s.t.extractLsb' 10 2)

/-- R217, R218: the two forms of the address port, selected by the latch; the second commits all 15 bits (the clearing of `S.t[14]`: the
spec's decision D13). -/
def Obligations.AddressWrites : Prop :=
  ∀ (s : State) (c : NesRom) (x : Access) (d : Byte), s.cart = some c → inPort x 6 →
    (decodeBusKey (busKey false true x.origin x.physical d) x.logical = some (.wrAddrHi x d) ∧
      ∃ t' : VAddr, exec (.wrAddrHi x d) s = .next { s with t := t', w := true } ∧
        t'.extractLsb' 8 6 = d.extractLsb' 0 6 ∧ t'.getLsbD 14 = false ∧ t'.extractLsb' 0 8 = s.t.extractLsb' 0 8) ∧
    (decodeBusKey (busKey true true x.origin x.physical d) x.logical = some (.wrAddrLo x d) ∧
      ∃ t' : VAddr, exec (.wrAddrLo x d) s = .next { s with t := t', v := t', w := false } ∧
        t'.extractLsb' 0 8 = d ∧ t'.extractLsb' 8 7 = s.t.extractLsb' 8 7)

/-- R219, R242, R245, R246: the data port's write, by region, the dirty flag and the increment. R242, R252 and R255 are the spec's own,
marked [from general knowledge, not in source]. -/
def Obligations.DataPortWrite : Prop :=
  ∀ (s : State) (c : NesRom) (x : Access) (d : Byte), s.cart = some c → inPort x 7 →
    selectedBy true x d (.wrData x d) ∧
    ∃ u, VramWritten c (s.v.setWidth 14) d s u ∧
      exec (.wrData x d) s = .next { u with ntDirty := true, v := s.v + increment s }

/-- R64, R221: a transaction in the register window does what the same transaction at `0x2000 + index` does, from either
origin. -/
def Obligations.RegisterMirrorsAreOneRegister : Prop :=
  ∀ (s : State) (rest : List Request) (o o' : Origin) (a b : Addr) (d : Byte),
    0x2000 ≤ a.toNat → a.toNat < 0x4000 → b.toNat = 0x2000 + (a.toNat - 0x2000) % 8 →
    step { s with requests := .read o a :: rest } = step { s with requests := .read o' b :: rest } ∧
    step { s with requests := .write o a d :: rest } = step { s with requests := .write o' b d :: rest }

/-- R36, R220: a write to register index 5 or 6 toggles the latch and a read of index 2 clears it; any other bus transaction but an
OAM-DMA, whose own reads may do so, leaves it, as do INSERT, RENDER and ACKVIEW. -/
def Obligations.WriteLatchRule : Prop :=
  ∀ (s t : State) (rest : List Request) (c : NesRom), s.cart = some c →
    (∀ (o : Origin) (a : Addr) (d : Byte), a ≠ 0x4014 → step { s with requests := .write o a d :: rest } = .next t →
      t.w = if 0x2000 ≤ a.toNat ∧ a.toNat < 0x4000 ∧ (a.toNat % 8 = 5 ∨ a.toNat % 8 = 6) then !s.w else s.w) ∧
    (∀ (o : Origin) (a : Addr), step { s with requests := .read o a :: rest } = .next t →
      t.w = if 0x2000 ≤ a.toNat ∧ a.toNat < 0x4000 ∧ a.toNat % 8 = 2 then false else s.w) ∧
    (∀ (op : BitVec 4) (img : List Byte), step { s with requests := .host op img :: rest } = .next t → op ≠ 0 → t.w = s.w)

/-- R119, R217, R218: SETV hi, lo sets both VRAM address registers to the 14 bits written, with the latch back at 0. -/
def Obligations.SetVSetsTheAddress : Prop :=
  ∀ (s : State) (c : NesRom) (hi lo : Byte), s.cart = some c →
    ∃ a : VAddr, a.extractLsb' 0 8 = lo ∧ a.extractLsb' 8 6 = hi.extractLsb' 0 6 ∧ a.getLsbD 14 = false ∧
      Safety.runOps (Pseudo.setV hi lo).expand s =
        .next (answered (if s.vblank = true then 0x80 else 0x00)
          { s with v := a, t := a, w := false, vblank := false, requests := [] })

/-! VRAM. -/

/-- R247, R251, R252, R256: the four read rows of the PPU address space. The mirror (R252) and the palette alias (R255) are the spec's
own, marked [from general knowledge, not in source]. -/
def Obligations.VramReadRows : Prop :=
  ∀ (s : State) (c : NesRom) (p : PAddr), s.cart = some c →
    let t := answered (vramByte c s p) { s with trace := s.trace ++ vramReadEvents c p }
    let k := vramKey false p 0x00
    (p.toNat < 0x2000 → decodeVramKey k = some (.vrdPat p) ∧ exec (.vrdPat p) s = .next t) ∧
    (0x2000 ≤ p.toNat → p.toNat < 0x3000 → decodeVramKey k = some (.vrdNt p) ∧ exec (.vrdNt p) s = .next t) ∧
    (0x3000 ≤ p.toNat → p.toNat < 0x3F00 → decodeVramKey k = some (.vrdNtm p) ∧ exec (.vrdNtm p) s = .next t) ∧
    (0x3F00 ≤ p.toNat → decodeVramKey k = some (.vrdPal p) ∧ exec (.vrdPal p) s = .next t)

/-- R248, R253, R257, R258: the four write rows of the PPU address space. The mirror (R252, R258) and the palette alias (R255) are the
spec's own, marked [from general knowledge, not in source]. -/
def Obligations.VramWriteRows : Prop :=
  ∀ (s : State) (c : NesRom) (p : PAddr) (d : Byte), s.cart = some c →
    let k := vramKey true p d
    (p.toNat < 0x2000 → decodeVramKey k = some (.vwrPat p d) ∧
      ∃ t, exec (.vwrPat p d) s = .next t ∧ VramWritten c p d s t) ∧
    (0x2000 ≤ p.toNat → p.toNat < 0x3000 → decodeVramKey k = some (.vwrNt p d) ∧
      ∃ t, exec (.vwrNt p d) s = .next t ∧ VramWritten c p d s t) ∧
    (0x3000 ≤ p.toNat → p.toNat < 0x3F00 → decodeVramKey k = some (.vwrNtm p d) ∧
      ∃ t, exec (.vwrNtm p d) s = .next t ∧ VramWritten c p d s t) ∧
    (0x3F00 ≤ p.toNat → decodeVramKey k = some (.vwrPal p d) ∧
      ∃ t, exec (.vwrPal p d) s = .next t ∧ VramWritten c p d s t)

/-- R250, R259: which quadrants share a physical table, and that the offset survives; the index stays inside the store. -/
def Obligations.NametableMirroring : Prop :=
  ∀ (arr : Arrangement) (p : PAddr), 0x2000 ≤ p.toNat → p.toNat < 0x3000 →
    ntIndex arr p = tableOf arr ((p.toNat - 0x2000) / 0x400) * 0x400 + p.toNat % 0x400 ∧
    ntIndex arr p % 0x400 = p.toNat % 0x400 ∧ ntIndex arr p < 2048

/-- R254, R255: the palette index, its alias, and that no folded cell is ever selected. The alias is the spec's own, marked
[from general knowledge, not in source]. -/
def Obligations.PaletteIndexFolds : Prop :=
  ∀ p : PAddr, 0x3F00 ≤ p.toNat →
    palIndex p = palCell p ∧ palIndex p < 32 ∧ palIndex p ∉ [0x10, 0x14, 0x18, 0x1C] ∧
    ∀ q : PAddr, 0x3F00 ≤ q.toNat → (palIndex p = palIndex q ↔
      p.toNat % 32 = q.toNat % 32 ∨
        (p.toNat % 16 = q.toNat % 16 ∧ p.toNat % 4 = 0))

/-! Cartridge. -/

/-- R140, R143 to R147: an image that passes every check is inserted, and nothing else changes. -/
def Obligations.InsertOfAGoodImage : Prop :=
  ∀ (s : State) (img : List Byte) (hasTrainer : Bool) (off prgLen chrLen : Nat),
    hasTrainer = (img.getD 6 0).getLsbD 2 → off = 16 + (if hasTrainer = true then 512 else 0) →
    prgLen = (img.getD 4 0).toNat * 16384 → chrLen = (img.getD 5 0).toNat * 8192 →
    img.take 4 = [0x4E, 0x45, 0x53, 0x1A] → off + prgLen + chrLen ≤ img.length →
    (img.getD 7 0).toNat / 16 * 16 + (img.getD 6 0).toNat / 16 = 0 →
    exec (.insert img) s = .next { s with cart := some {
      header := img.take 16
      trainer := if hasTrainer = true then some ((img.drop 16).take 512) else none
      prg := (img.drop off).take prgLen
      chr := (img.drop (off + prgLen)).take chrLen
      prgBankCount16K := img.getD 4 0
      chrBankCount8K := img.getD 5 0
      mapperId := 0x00
      nametableArrangement := if (img.getD 6 0).getLsbD 0 = true then .vertical else .horizontal } }

/-- R141, R142, R148, R325 to R328, R336: the first failing check in the order signature, header length, data length, mapper id is
reported, once, and nothing but the trace changes. The order of the two nibbles in the id reported (R147) is the spec's own, marked
[from general knowledge, not in source]. -/
def Obligations.InsertReportsFirstFailingCheck : Prop :=
  ∀ (s : State) (img : List Byte) (need mapper : Nat),
    need = 16 + (if (img.getD 6 0).getLsbD 2 = true then 512 else 0) + (img.getD 4 0).toNat * 16384 +
      (img.getD 5 0).toNat * 8192 →
    mapper = (img.getD 7 0).toNat / 16 * 16 + (img.getD 6 0).toNat / 16 →
    (img.length < 4 ∨ img.take 4 ≠ [0x4E, 0x45, 0x53, 0x1A] →
      exec (.insert img) s = .next (logged (.formatErr .badSignature none) s)) ∧
    (4 ≤ img.length → img.take 4 = [0x4E, 0x45, 0x53, 0x1A] → img.length < 16 ∨ img.length < need →
      exec (.insert img) s = .next (logged (.formatErr .tooShort none) s)) ∧
    (16 ≤ img.length → img.take 4 = [0x4E, 0x45, 0x53, 0x1A] → need ≤ img.length → mapper ≠ 0 →
      exec (.insert img) s = .next (logged (.formatErr .unsupportedMapper (some (BitVec.ofNat 8 mapper))) s))

/-! Rendering. -/

/-- R270, R271, R296, R297, R298, R335: what a RENDER writes, and its events in order: the fetch's diagnostics, NmiRequest if it is
enabled, FramePresented. -/
def Obligations.RenderCompletes : Prop :=
  (∀ img, decodeKey (.host 2 img) = .instr .render) ∧
  ∀ (s : State) (c : NesRom), s.cart = some c →
    ∃ t, exec .render s = .next t ∧ t = { s with vblank := true, fb := t.fb, trace := t.trace } ∧
      t.trace = s.trace ++ fetchEvents c ++ (if s.ctrl.getLsbD 7 = true then [.nmiRequest] else []) ++ [.framePresented]

/-- Every pixel of the picture in closed form: the lowest-numbered opaque candidate of the line before, else the background tile the
scroll puts there (R273 to R295). The pattern layout (R273), the walks (R277, R278), the attribute layout (R279), the 6-bit colour
index (R281), the 8x16 tile selection (R290), the flip bits (R291) and the sprite priority (R295) are the spec's own, marked [from
general knowledge, not in source]. -/
def Obligations.RenderedPixelInClosedForm : Prop :=
  ∀ (s : State) (c : NesRom), s.cart = some c → ∃ t, exec .render s = .next t ∧
    ∀ x y, x < 256 → y < 240 → pixel t x y = (spritePixelColour c s x y).getD (bgPixelColour c s x y)

/-- R300 (a), R282: the framebuffer is a function of the named fields alone; nothing of the old picture survives, and no other
register, RAM or PRG is seen. -/
def Obligations.PictureDependsOnlyOnNamedState : Prop :=
  ∀ (s s' : State) (c c' : NesRom), s.cart = some c → s'.cart = some c' →
    s.ctrl = s'.ctrl → s.scrollX = s'.scrollX → s.scrollY = s'.scrollY → s.t.extractLsb' 10 2 = s'.t.extractLsb' 10 2 →
    (∀ i, i < 2048 → s.ntByte i = s'.ntByte i) → (∀ i, i < 32 → s.palByte i = s'.palByte i) →
    (∀ i, i < 256 → s.oamByte i = s'.oamByte i) → c.chr = c'.chr → c.nametableArrangement = c'.nametableArrangement →
    ∃ t t', exec .render s = .next t ∧ exec .render s' = .next t' ∧ t.fb = t'.fb

/-- R300 (b), (c), (d): two RENDERs in a row give the same picture, set the flag, and emit the same events. -/
def Obligations.RenderTwiceSamePicture : Prop :=
  ∀ (s : State) (c : NesRom), s.cart = some c → ∃ t u es, exec .render s = .next t ∧ exec .render t = .next u ∧
    u.fb = t.fb ∧ t.vblank = true ∧ u.vblank = true ∧ t.trace = s.trace ++ es ∧ u.trace = t.trace ++ es ∧
    es.count .nmiRequest = (if s.ctrl.getLsbD 7 = true then 1 else 0) ∧ es.count .framePresented = 1 ∧
    es.getLast? = some .framePresented

/-- R283, R284: sprite evaluation keeps the first eight entries in range, in ascending order, each with its row. -/
def Obligations.SpriteEvaluationFirstEight : Prop :=
  ∀ (s : State) (line : Nat), line < 240 →
    spriteEval s line (spriteHeight s) =
      (candidates s line).map fun i => { i := i, row := line - (s.oamByte (4 * i)).toNat }

/-- R276, R277, R278: the place of every background cell. The walks are the spec's own, marked [from general knowledge, not in
source]. -/
def Obligations.BackgroundCellWalk : Prop :=
  ∀ (s : State) (cx cy : Nat), cx < 33 → cy < 31 →
    let X := s.scrollX.toNat / 8 + cx
    let y0 := s.scrollY.toNat / 8
    let h := s.t.extractLsb' 10 1
    let v := s.t.extractLsb' 11 1
    cellCoords s cx cy = {
      n := 2 * (if y0 < 30 ∧ 30 ≤ y0 + cy then v ^^^ 1 else v).toNat + (if X < 32 then h else h ^^^ 1).toNat
      tx := X % 32
      ty := if y0 < 30 then (y0 + cy) % 30 else (y0 + cy) % 32 }

/-- R301: the worked example of the rendering pass. -/
def Obligations.RenderWorkedExample : Prop :=
  ∀ (s : State) (c : NesRom), s.cart = some c → c.chr.length = 8192 →
    (∀ k, k < 8 → c.chr.getD (16 + k) 0 = 0xFF ∧ c.chr.getD (24 + k) 0 = 0x00) → (∀ k, k < 16 → c.chr.getD k 0 = 0x00) →
    s.palByte 0x00 = 0x0F → s.palByte 0x11 = 0x16 → (∀ i, i < 2048 → s.ntByte i = 0x00) → s.ctrl = 0x00 →
    s.scrollX = 0x00 → s.scrollY = 0x00 → s.oamByte 0 = 0x10 → s.oamByte 1 = 0x01 → s.oamByte 2 = 0x00 → s.oamByte 3 = 0x20 →
    (∀ i, 1 ≤ i → i < 64 → s.oamByte (4 * i) = 0xFF) →
    ∃ t, exec .render s = .next t ∧ ∀ x y, x < 256 → y < 240 →
      pixel t x y = Config.masterPalette (if 0x20 ≤ x ∧ x ≤ 0x27 ∧ 17 ≤ y ∧ y ≤ 24 then 0x16 else 0x0F)

/-- R299: ACKVIEW clears the dirty flag and writes nothing else. -/
def Obligations.AckviewClearsDirty : Prop :=
  (∀ img, decodeKey (.host 3 img) = .instr .ackview) ∧
  ∀ (s : State) (c : NesRom), s.cart = some c → exec .ackview s = .next { s with ntDirty := false }

/-! Whole-machine rules. -/

/-- R9, R45: events are appended; no operation, RESET included, removes or changes one. -/
def Obligations.TraceOnlyGrows : Prop :=
  ∀ (s t : State), step s = .next t → ∃ es, t.trace = s.trace ++ es

/-- R297, R330: RENDER is the one source of NmiRequest, exactly one when `S.ctrl[7]` is set. That it adds exactly one FramePresented
is R298 and R300 (b); that nothing else adds one is read from R45 and the rules of the other operations, none of which emits it. -/
def Obligations.NmiOnlyFromRender : Prop :=
  ∀ (i : Instr) (s t : State), exec i s = .next t →
    t.trace.count .nmiRequest = s.trace.count .nmiRequest + (if i = .render ∧ s.ctrl.getLsbD 7 = true then 1 else 0) ∧
    t.trace.count .framePresented = s.trace.count .framePresented + (if i = .render then 1 else 0)

/-- R335: one bus transaction appends at most one event; an OAM-DMA at most the 256 of its reads. -/
def Obligations.OneDiagnosticPerTransaction : Prop :=
  ∀ (s t : State) (rest : List Request) (c : NesRom) (o : Origin) (a : Addr) (d : Byte), s.cart = some c →
    (step { s with requests := .read o a :: rest } = .next t → t.trace.length ≤ s.trace.length + 1) ∧
    (step { s with requests := .write o a d :: rest } = .next t →
      t.trace.length ≤ s.trace.length + (if a = 0x4014 then 256 else 1))

/-- Who may write which field (R22, R30, R32, R33, R35, R37 to R43, R360): for every operation but RESET, a field that changes names
the operation. Of the model's own fields (notes/assumptions/4.md), RESET alone takes a new power-on draw, the next one. A step changes
the nametable or the palette store only by RESET or a write to the data port (R85, R100). -/
def Obligations.WritersOfEachField : Prop :=
  (∀ s t : State, exec .reset s = .next t → t.powerOn = s.draws ∧ t.draws = s.draws + 1) ∧
  (∀ s t : State, step s = .next t → t.nt ≠ s.nt ∨ t.pal ≠ s.pal →
    (∃ img rest, s.requests = .host 0 img :: rest) ∨
      ∃ o a d rest, s.requests = .write o a d :: rest ∧ 0x2000 ≤ a.toNat ∧ a.toNat < 0x4000 ∧ a.toNat % 8 = 7) ∧
  ∀ (i : Instr) (s t : State), exec i s = .next t → i ≠ .reset → t.powerOn = s.powerOn ∧
    (t.ctrl ≠ s.ctrl → ∃ x d, i = .wrCtrl x d) ∧
    (t.mask ≠ s.mask → ∃ x d, i = .wrMask x d) ∧
    (t.oamAddr ≠ s.oamAddr → ∃ x d, i = .wrOamaddr x d ∨ i = .wrOamdata x d) ∧
    (t.scrollX ≠ s.scrollX → ∃ x d, i = .wrScrollX x d) ∧
    (t.scrollY ≠ s.scrollY → ∃ x d, i = .wrScrollY x d) ∧
    (t.t ≠ s.t → ∃ x d, i = .wrCtrl x d ∨ i = .wrScrollX x d ∨ i = .wrScrollY x d ∨ i = .wrAddrHi x d ∨ i = .wrAddrLo x d) ∧
    (t.v ≠ s.v → ∃ x d, i = .wrAddrLo x d ∨ i = .wrData x d ∨ i = .rdData x ∨ i = .wrOamdma x d) ∧
    (t.ntDirty ≠ s.ntDirty → i = .ackview ∨ ∃ x d, i = .wrData x d) ∧
    (t.ram ≠ s.ram → ∃ x d, i = .wrRam x d) ∧
    (t.nt ≠ s.nt → (∃ p d, i = .vwrNt p d ∨ i = .vwrNtm p d) ∨ ∃ x d, i = .wrData x d) ∧
    (t.pal ≠ s.pal → (∃ p d, i = .vwrPal p d) ∨ ∃ x d, i = .wrData x d) ∧
    (t.oam ≠ s.oam → ∃ x d, i = .wrOamdata x d ∨ i = .wrOamdma x d) ∧
    (t.fb ≠ s.fb → i = .render) ∧
    (t.cart ≠ s.cart → ∃ img, i = .insert img)

/-- R51: who writes `S.vblank`: RENDER sets it, a status read clears it (an OAM-DMA's reads among them), and nothing else but RESET
changes it. -/
def Obligations.VblankWriters : Prop :=
  ∀ (i : Instr) (s t : State), exec i s = .next t → t.vblank ≠ s.vblank →
    (i = .render ∧ t.vblank = true) ∨ ((∃ x, i = .rdStatus x) ∧ t.vblank = false) ∨
      ((∃ x d, i = .wrOamdma x d ∧ 0x20 ≤ d.toNat ∧ d.toNat < 0x40) ∧ t.vblank = false) ∨ (i = .reset ∧ t.vblank = false)

end Statements
end

