-- ==== Sys2Proof/Laws/Decode.lean ====
section
/-! SUPPORT. What the first-match tables decode: a BUS key by the ranges of its address (busInstr), a VRAM key by its region
(vramInstr). Later proofs cite decodeBusKey_busKey and decodeVramKey_vramKey instead of walking the tables. -/

set_option linter.unusedSimpArgs false

namespace Sys2Proof

/-! Slices of a 27-bit key. -/

/-- Two BUS keys agree when they agree on the slices that the table's masks are made of. -/
theorem eq_iff_slices (k v : BitVec 27) : k = v ↔
    k.extractLsb' 26 1 = v.extractLsb' 26 1 ∧ k.extractLsb' 25 1 = v.extractLsb' 25 1 ∧ k.extractLsb' 24 1 = v.extractLsb' 24 1 ∧
    k.extractLsb' 23 1 = v.extractLsb' 23 1 ∧ k.extractLsb' 22 1 = v.extractLsb' 22 1 ∧ k.extractLsb' 21 1 = v.extractLsb' 21 1 ∧
    k.extractLsb' 13 8 = v.extractLsb' 13 8 ∧ k.extractLsb' 11 2 = v.extractLsb' 11 2 ∧ k.extractLsb' 8 3 = v.extractLsb' 8 3 ∧
    k.extractLsb' 0 8 = v.extractLsb' 0 8 := by
  constructor
  · intro h; subst h; exact ⟨rfl, rfl, rfl, rfl, rfl, rfl, rfl, rfl, rfl, rfl⟩
  · rintro ⟨h26, h25, h24, h23, h22, h21, h13, h11, h8, h0⟩
    have bit : ∀ (s n j : Nat), k.extractLsb' s n = v.extractLsb' s n → j < n → k.getLsbD (s + j) = v.getLsbD (s + j) := by
      intro s n j h hj
      have := congrArg (fun x => x.getLsbD j) h
      simpa [hj] using this
    apply BitVec.eq_of_getLsbD_eq
    intro i hi
    by_cases c0 : i < 8
    · simpa using bit 0 8 i h0 c0
    by_cases c8 : i < 11
    · simpa [show 8 + (i - 8) = i by omega] using bit 8 3 (i - 8) h8 (by omega)
    by_cases c11 : i < 13
    · simpa [show 11 + (i - 11) = i by omega] using bit 11 2 (i - 11) h11 (by omega)
    by_cases c13 : i < 21
    · simpa [show 13 + (i - 13) = i by omega] using bit 13 8 (i - 13) h13 (by omega)
    obtain rfl | rfl | rfl | rfl | rfl | rfl : i = 21 ∨ i = 22 ∨ i = 23 ∨ i = 24 ∨ i = 25 ∨ i = 26 := by omega
    · exact bit 21 1 0 h21 (by omega)
    · exact bit 22 1 0 h22 (by omega)
    · exact bit 23 1 0 h23 (by omega)
    · exact bit 24 1 0 h24 (by omega)
    · exact bit 25 1 0 h25 (by omega)
    · exact bit 26 1 0 h26 (by omega)

/-- The value of an append. -/
theorem append_toNat {m n : Nat} (x : BitVec m) (y : BitVec n) : (x ++ y).toNat = x.toNat * 2 ^ n + y.toNat := by
  rw [BitVec.toNat_append, ← Nat.shiftLeft_add_eq_or_of_lt y.isLt, Nat.shiftLeft_eq]

/-- The value of a BUS key is the sum of its fields at their places. -/
theorem busKey_toNat (l w : Bool) (o : Origin) (a : Addr) (d : Byte) :
    (busKey l w o a d).toNat =
      (((l.toNat * 2 + w.toNat) * 2 + o.bit.toNat) * 65536 + a.toNat) * 256 + d.toNat := by
  have h : (busKey l w o a d).toNat =
      BitVec.toNat (w := 1 + 1 + 1 + 16 + 8) (BitVec.ofBool l ++ BitVec.ofBool w ++ o.bit ++ a ++ d) := rfl
  rw [h]
  simp only [append_toNat, BitVec.toNat_ofBool, Nat.reducePow, Nat.pow_one]

@[simp] theorem and_ones1 (x : BitVec 1) : x &&& 1#1 = x := BitVec.and_allOnes
@[simp] theorem and_ones2 (x : BitVec 2) : x &&& 3#2 = x := BitVec.and_allOnes
@[simp] theorem and_ones3 (x : BitVec 3) : x &&& 7#3 = x := BitVec.and_allOnes
@[simp] theorem and_ones8 (x : BitVec 8) : x &&& 255#8 = x := BitVec.and_allOnes

theorem busKey_fields (l w o a d : Nat) (hl : l < 2) (hw : w < 2) (ho : o < 2) (ha : a < 65536) (hd : d < 256) :
    let k := (((l * 2 + w) * 2 + o) * 65536 + a) * 256 + d
    k / 67108864 % 2 = l ∧ k / 33554432 % 2 = w ∧ k / 16777216 % 2 = o ∧ k / 256 % 65536 = a ∧ k % 256 = d := by
  intro k
  omega

theorem busKey_toNat_fields (l w : Bool) (o : Origin) (a : Addr) (d : Byte) :
    (busKey l w o a d).toNat / 67108864 % 2 = l.toNat ∧ (busKey l w o a d).toNat / 33554432 % 2 = w.toNat ∧
    (busKey l w o a d).toNat / 16777216 % 2 = o.bit.toNat ∧ (busKey l w o a d).toNat / 256 % 65536 = a.toNat ∧
    (busKey l w o a d).toNat % 256 = d.toNat := by
  rw [busKey_toNat]
  exact busKey_fields l.toNat w.toNat o.bit.toNat a.toNat d.toNat l.toNat_lt w.toNat_lt o.bit.isLt a.isLt d.isLt

theorem slice27_eq (k : BitVec 27) (s n : Nat) (v : BitVec n) : (k.extractLsb' s n = v) = (k.toNat / 2 ^ s % 2 ^ n = v.toNat) := by
  rw [← BitVec.toNat_inj, BitVec.extractLsb'_toNat, Nat.shiftRight_eq_div_pow]

@[simp] theorem busKey_slice_l (l w : Bool) (o : Origin) (a : Addr) (d : Byte) :
    (busKey l w o a d).extractLsb' 26 1 = BitVec.ofBool l := by
  rw [slice27_eq]
  exact (busKey_toNat_fields l w o a d).1.trans (by cases l <;> rfl)

@[simp] theorem busKey_slice_w (l w : Bool) (o : Origin) (a : Addr) (d : Byte) :
    (busKey l w o a d).extractLsb' 25 1 = BitVec.ofBool w := by
  rw [slice27_eq]
  exact (busKey_toNat_fields l w o a d).2.1.trans (by cases w <;> rfl)

@[simp] theorem busKey_slice_o (l w : Bool) (o : Origin) (a : Addr) (d : Byte) :
    (busKey l w o a d).extractLsb' 24 1 = o.bit := by
  rw [slice27_eq]
  exact (busKey_toNat_fields l w o a d).2.2.1.trans rfl

@[simp] theorem busKey_slice_addr (l w : Bool) (o : Origin) (a : Addr) (d : Byte) :
    (busKey l w o a d).extractLsb' 8 16 = a := by
  rw [slice27_eq]
  exact (busKey_toNat_fields l w o a d).2.2.2.1

@[simp] theorem busKey_slice_d (l w : Bool) (o : Origin) (a : Addr) (d : Byte) :
    (busKey l w o a d).extractLsb' 0 8 = d := by
  rw [slice27_eq, Nat.pow_zero, Nat.div_one]
  exact (busKey_toNat_fields l w o a d).2.2.2.2

theorem busKey_slice_a (l w : Bool) (o : Origin) (a : Addr) (d : Byte) {s n : Nat} (h : s + n ≤ 16) :
    (busKey l w o a d).extractLsb' (8 + s) n = a.extractLsb' s n := by
  apply BitVec.eq_of_getLsbD_eq
  intro i hi
  have := congrArg (fun x => x.getLsbD (s + i)) (busKey_slice_addr l w o a d)
  simp only [BitVec.getLsbD_extractLsb', show s + i < 16 by omega, hi, decide_true, Bool.true_and] at this ⊢
  rw [← this, Nat.add_assoc]

theorem busKey_slice_a0 (l w : Bool) (o : Origin) (a : Addr) (d : Byte) :
    (busKey l w o a d).extractLsb' 8 3 = a.extractLsb' 0 3 := by
  simpa using busKey_slice_a l w o a d (show 0 + 3 ≤ 16 by decide)

/-- A masked key equals a value when the key's slices under the mask do, in terms of the key's fields. -/
theorem busKey_match (l w : Bool) (o : Origin) (a : Addr) (d : Byte) (m v : BitVec 27) :
    (busKey l w o a d &&& m = v) ↔
      BitVec.ofBool l &&& m.extractLsb' 26 1 = v.extractLsb' 26 1 ∧
      BitVec.ofBool w &&& m.extractLsb' 25 1 = v.extractLsb' 25 1 ∧
      o.bit &&& m.extractLsb' 24 1 = v.extractLsb' 24 1 ∧
      a.extractLsb' 15 1 &&& m.extractLsb' 23 1 = v.extractLsb' 23 1 ∧
      a.extractLsb' 14 1 &&& m.extractLsb' 22 1 = v.extractLsb' 22 1 ∧
      a.extractLsb' 13 1 &&& m.extractLsb' 21 1 = v.extractLsb' 21 1 ∧
      a.extractLsb' 5 8 &&& m.extractLsb' 13 8 = v.extractLsb' 13 8 ∧
      a.extractLsb' 3 2 &&& m.extractLsb' 11 2 = v.extractLsb' 11 2 ∧
      a.extractLsb' 0 3 &&& m.extractLsb' 8 3 = v.extractLsb' 8 3 ∧
      d &&& m.extractLsb' 0 8 = v.extractLsb' 0 8 := by
  rw [eq_iff_slices]
  simp only [BitVec.extractLsb'_and, busKey_slice_l, busKey_slice_w, busKey_slice_o, busKey_slice_d,
    show (23 : Nat) = 8 + 15 from rfl, show (22 : Nat) = 8 + 14 from rfl, show (21 : Nat) = 8 + 13 from rfl,
    show (13 : Nat) = 8 + 5 from rfl, show (11 : Nat) = 8 + 3 from rfl, busKey_slice_a l w o a d (show 15 + 1 ≤ 16 by decide),
    busKey_slice_a l w o a d (show 14 + 1 ≤ 16 by decide), busKey_slice_a l w o a d (show (8 + 5) + 1 ≤ 16 by decide),
    busKey_slice_a l w o a d (show 5 + 8 ≤ 16 by decide), busKey_slice_a l w o a d (show 3 + 2 ≤ 16 by decide),
    busKey_slice_a0 l w o a d]

/-! The slices a row's mask tests, as ranges of the address. -/

@[simp] theorem ofBool_eq_zero (b : Bool) : (BitVec.ofBool b = 0#1) = (b = false) := by cases b <;> decide
@[simp] theorem ofBool_eq_one (b : Bool) : (BitVec.ofBool b = 1#1) = (b = true) := by cases b <;> decide
@[simp] theorem originBit_eq_zero (o : Origin) : (o.bit = 0#1) = (o = .cpu) := by cases o <;> decide
@[simp] theorem originBit_eq_one (o : Origin) : (o.bit = 1#1) = (o = .ppu) := by cases o <;> decide

/-- A slice of an address equals a value when the quotient and remainder do. -/
theorem slice_eq (a : Addr) (s n : Nat) (v : BitVec n) : (a.extractLsb' s n = v) = (a.toNat / 2 ^ s % 2 ^ n = v.toNat) := by
  rw [← BitVec.toNat_inj, BitVec.extractLsb'_toNat, Nat.shiftRight_eq_div_pow]

/-! One lemma per BUS row: when the key matches it. -/

theorem row_rdRam (l w : Bool) (o : Origin) (a : Addr) (d : Byte) :
    (busKey l w o a d &&& 0x3E00000#27 == 0x0000000#27) = decide (w = false ∧ o = .cpu ∧ a.toNat / 8192 = 0) := by
  have ha := a.isLt
  simp only [beq_eq_decide, decide_eq_decide, busKey_match, BitVec.reduceExtractLsb', and_ones1, and_ones2, and_ones3, and_ones8, BitVec.and_zero, true_and, and_true,
    ofBool_eq_zero, ofBool_eq_one, originBit_eq_zero, originBit_eq_one, BitVec.toNat_ofNat, Nat.reducePow, Nat.reduceMod, slice_eq]
  refine and_congr_right fun _ => and_congr_right fun _ => ?_
  omega

theorem row_wrRam (l w : Bool) (o : Origin) (a : Addr) (d : Byte) :
    (busKey l w o a d &&& 0x3E00000#27 == 0x2000000#27) = decide (w = true ∧ o = .cpu ∧ a.toNat / 8192 = 0) := by
  have ha := a.isLt
  simp only [beq_eq_decide, decide_eq_decide, busKey_match, BitVec.reduceExtractLsb', and_ones1, and_ones2, and_ones3, and_ones8, BitVec.and_zero, true_and, and_true,
    ofBool_eq_zero, ofBool_eq_one, originBit_eq_zero, originBit_eq_one, BitVec.toNat_ofNat, Nat.reducePow, Nat.reduceMod, slice_eq]
  refine and_congr_right fun _ => and_congr_right fun _ => ?_
  omega

theorem row_prdChr (l w : Bool) (o : Origin) (a : Addr) (d : Byte) :
    (busKey l w o a d &&& 0x3E00000#27 == 0x1000000#27) = decide (w = false ∧ o = .ppu ∧ a.toNat / 8192 = 0) := by
  have ha := a.isLt
  simp only [beq_eq_decide, decide_eq_decide, busKey_match, BitVec.reduceExtractLsb', and_ones1, and_ones2, and_ones3, and_ones8, BitVec.and_zero, true_and, and_true,
    ofBool_eq_zero, ofBool_eq_one, originBit_eq_zero, originBit_eq_one, BitVec.toNat_ofNat, Nat.reducePow, Nat.reduceMod, slice_eq]
  refine and_congr_right fun _ => and_congr_right fun _ => ?_
  omega

theorem row_pwrChr (l w : Bool) (o : Origin) (a : Addr) (d : Byte) :
    (busKey l w o a d &&& 0x3E00000#27 == 0x3000000#27) = decide (w = true ∧ o = .ppu ∧ a.toNat / 8192 = 0) := by
  have ha := a.isLt
  simp only [beq_eq_decide, decide_eq_decide, busKey_match, BitVec.reduceExtractLsb', and_ones1, and_ones2, and_ones3, and_ones8, BitVec.and_zero, true_and, and_true,
    ofBool_eq_zero, ofBool_eq_one, originBit_eq_zero, originBit_eq_one, BitVec.toNat_ofNat, Nat.reducePow, Nat.reduceMod, slice_eq]
  refine and_congr_right fun _ => and_congr_right fun _ => ?_
  omega

theorem row_rdCtrl (l w : Bool) (o : Origin) (a : Addr) (d : Byte) :
    (busKey l w o a d &&& 0x2E00700#27 == 0x0200000#27) = decide (w = false ∧ a.toNat / 8192 = 1 ∧ a.toNat % 8 = 0) := by
  have ha := a.isLt
  simp only [beq_eq_decide, decide_eq_decide, busKey_match, BitVec.reduceExtractLsb', and_ones1, and_ones2, and_ones3, and_ones8, BitVec.and_zero, true_and, and_true,
    ofBool_eq_zero, ofBool_eq_one, originBit_eq_zero, originBit_eq_one, BitVec.toNat_ofNat, Nat.reducePow, Nat.reduceMod, slice_eq]
  refine and_congr_right fun _ => ?_
  omega

theorem row_rdMask (l w : Bool) (o : Origin) (a : Addr) (d : Byte) :
    (busKey l w o a d &&& 0x2E00700#27 == 0x0200100#27) = decide (w = false ∧ a.toNat / 8192 = 1 ∧ a.toNat % 8 = 1) := by
  have ha := a.isLt
  simp only [beq_eq_decide, decide_eq_decide, busKey_match, BitVec.reduceExtractLsb', and_ones1, and_ones2, and_ones3, and_ones8, BitVec.and_zero, true_and, and_true,
    ofBool_eq_zero, ofBool_eq_one, originBit_eq_zero, originBit_eq_one, BitVec.toNat_ofNat, Nat.reducePow, Nat.reduceMod, slice_eq]
  refine and_congr_right fun _ => ?_
  omega

theorem row_rdStatus (l w : Bool) (o : Origin) (a : Addr) (d : Byte) :
    (busKey l w o a d &&& 0x2E00700#27 == 0x0200200#27) = decide (w = false ∧ a.toNat / 8192 = 1 ∧ a.toNat % 8 = 2) := by
  have ha := a.isLt
  simp only [beq_eq_decide, decide_eq_decide, busKey_match, BitVec.reduceExtractLsb', and_ones1, and_ones2, and_ones3, and_ones8, BitVec.and_zero, true_and, and_true,
    ofBool_eq_zero, ofBool_eq_one, originBit_eq_zero, originBit_eq_one, BitVec.toNat_ofNat, Nat.reducePow, Nat.reduceMod, slice_eq]
  refine and_congr_right fun _ => ?_
  omega

theorem row_rdOamaddr (l w : Bool) (o : Origin) (a : Addr) (d : Byte) :
    (busKey l w o a d &&& 0x2E00700#27 == 0x0200300#27) = decide (w = false ∧ a.toNat / 8192 = 1 ∧ a.toNat % 8 = 3) := by
  have ha := a.isLt
  simp only [beq_eq_decide, decide_eq_decide, busKey_match, BitVec.reduceExtractLsb', and_ones1, and_ones2, and_ones3, and_ones8, BitVec.and_zero, true_and, and_true,
    ofBool_eq_zero, ofBool_eq_one, originBit_eq_zero, originBit_eq_one, BitVec.toNat_ofNat, Nat.reducePow, Nat.reduceMod, slice_eq]
  refine and_congr_right fun _ => ?_
  omega

theorem row_rdOamdata (l w : Bool) (o : Origin) (a : Addr) (d : Byte) :
    (busKey l w o a d &&& 0x2E00700#27 == 0x0200400#27) = decide (w = false ∧ a.toNat / 8192 = 1 ∧ a.toNat % 8 = 4) := by
  have ha := a.isLt
  simp only [beq_eq_decide, decide_eq_decide, busKey_match, BitVec.reduceExtractLsb', and_ones1, and_ones2, and_ones3, and_ones8, BitVec.and_zero, true_and, and_true,
    ofBool_eq_zero, ofBool_eq_one, originBit_eq_zero, originBit_eq_one, BitVec.toNat_ofNat, Nat.reducePow, Nat.reduceMod, slice_eq]
  refine and_congr_right fun _ => ?_
  omega

theorem row_rdScroll (l w : Bool) (o : Origin) (a : Addr) (d : Byte) :
    (busKey l w o a d &&& 0x2E00700#27 == 0x0200500#27) = decide (w = false ∧ a.toNat / 8192 = 1 ∧ a.toNat % 8 = 5) := by
  have ha := a.isLt
  simp only [beq_eq_decide, decide_eq_decide, busKey_match, BitVec.reduceExtractLsb', and_ones1, and_ones2, and_ones3, and_ones8, BitVec.and_zero, true_and, and_true,
    ofBool_eq_zero, ofBool_eq_one, originBit_eq_zero, originBit_eq_one, BitVec.toNat_ofNat, Nat.reducePow, Nat.reduceMod, slice_eq]
  refine and_congr_right fun _ => ?_
  omega

theorem row_rdAddr (l w : Bool) (o : Origin) (a : Addr) (d : Byte) :
    (busKey l w o a d &&& 0x2E00700#27 == 0x0200600#27) = decide (w = false ∧ a.toNat / 8192 = 1 ∧ a.toNat % 8 = 6) := by
  have ha := a.isLt
  simp only [beq_eq_decide, decide_eq_decide, busKey_match, BitVec.reduceExtractLsb', and_ones1, and_ones2, and_ones3, and_ones8, BitVec.and_zero, true_and, and_true,
    ofBool_eq_zero, ofBool_eq_one, originBit_eq_zero, originBit_eq_one, BitVec.toNat_ofNat, Nat.reducePow, Nat.reduceMod, slice_eq]
  refine and_congr_right fun _ => ?_
  omega

theorem row_rdData (l w : Bool) (o : Origin) (a : Addr) (d : Byte) :
    (busKey l w o a d &&& 0x2E00700#27 == 0x0200700#27) = decide (w = false ∧ a.toNat / 8192 = 1 ∧ a.toNat % 8 = 7) := by
  have ha := a.isLt
  simp only [beq_eq_decide, decide_eq_decide, busKey_match, BitVec.reduceExtractLsb', and_ones1, and_ones2, and_ones3, and_ones8, BitVec.and_zero, true_and, and_true,
    ofBool_eq_zero, ofBool_eq_one, originBit_eq_zero, originBit_eq_one, BitVec.toNat_ofNat, Nat.reducePow, Nat.reduceMod, slice_eq]
  refine and_congr_right fun _ => ?_
  omega

theorem row_wrCtrl (l w : Bool) (o : Origin) (a : Addr) (d : Byte) :
    (busKey l w o a d &&& 0x2E00700#27 == 0x2200000#27) = decide (w = true ∧ a.toNat / 8192 = 1 ∧ a.toNat % 8 = 0) := by
  have ha := a.isLt
  simp only [beq_eq_decide, decide_eq_decide, busKey_match, BitVec.reduceExtractLsb', and_ones1, and_ones2, and_ones3, and_ones8, BitVec.and_zero, true_and, and_true,
    ofBool_eq_zero, ofBool_eq_one, originBit_eq_zero, originBit_eq_one, BitVec.toNat_ofNat, Nat.reducePow, Nat.reduceMod, slice_eq]
  refine and_congr_right fun _ => ?_
  omega

theorem row_wrMask (l w : Bool) (o : Origin) (a : Addr) (d : Byte) :
    (busKey l w o a d &&& 0x2E00700#27 == 0x2200100#27) = decide (w = true ∧ a.toNat / 8192 = 1 ∧ a.toNat % 8 = 1) := by
  have ha := a.isLt
  simp only [beq_eq_decide, decide_eq_decide, busKey_match, BitVec.reduceExtractLsb', and_ones1, and_ones2, and_ones3, and_ones8, BitVec.and_zero, true_and, and_true,
    ofBool_eq_zero, ofBool_eq_one, originBit_eq_zero, originBit_eq_one, BitVec.toNat_ofNat, Nat.reducePow, Nat.reduceMod, slice_eq]
  refine and_congr_right fun _ => ?_
  omega

theorem row_wrStatus (l w : Bool) (o : Origin) (a : Addr) (d : Byte) :
    (busKey l w o a d &&& 0x2E00700#27 == 0x2200200#27) = decide (w = true ∧ a.toNat / 8192 = 1 ∧ a.toNat % 8 = 2) := by
  have ha := a.isLt
  simp only [beq_eq_decide, decide_eq_decide, busKey_match, BitVec.reduceExtractLsb', and_ones1, and_ones2, and_ones3, and_ones8, BitVec.and_zero, true_and, and_true,
    ofBool_eq_zero, ofBool_eq_one, originBit_eq_zero, originBit_eq_one, BitVec.toNat_ofNat, Nat.reducePow, Nat.reduceMod, slice_eq]
  refine and_congr_right fun _ => ?_
  omega

theorem row_wrOamaddr (l w : Bool) (o : Origin) (a : Addr) (d : Byte) :
    (busKey l w o a d &&& 0x2E00700#27 == 0x2200300#27) = decide (w = true ∧ a.toNat / 8192 = 1 ∧ a.toNat % 8 = 3) := by
  have ha := a.isLt
  simp only [beq_eq_decide, decide_eq_decide, busKey_match, BitVec.reduceExtractLsb', and_ones1, and_ones2, and_ones3, and_ones8, BitVec.and_zero, true_and, and_true,
    ofBool_eq_zero, ofBool_eq_one, originBit_eq_zero, originBit_eq_one, BitVec.toNat_ofNat, Nat.reducePow, Nat.reduceMod, slice_eq]
  refine and_congr_right fun _ => ?_
  omega

theorem row_wrOamdata (l w : Bool) (o : Origin) (a : Addr) (d : Byte) :
    (busKey l w o a d &&& 0x2E00700#27 == 0x2200400#27) = decide (w = true ∧ a.toNat / 8192 = 1 ∧ a.toNat % 8 = 4) := by
  have ha := a.isLt
  simp only [beq_eq_decide, decide_eq_decide, busKey_match, BitVec.reduceExtractLsb', and_ones1, and_ones2, and_ones3, and_ones8, BitVec.and_zero, true_and, and_true,
    ofBool_eq_zero, ofBool_eq_one, originBit_eq_zero, originBit_eq_one, BitVec.toNat_ofNat, Nat.reducePow, Nat.reduceMod, slice_eq]
  refine and_congr_right fun _ => ?_
  omega

theorem row_wrScrollX (l w : Bool) (o : Origin) (a : Addr) (d : Byte) :
    (busKey l w o a d &&& 0x6E00700#27 == 0x2200500#27) = decide (l = false ∧ w = true ∧ a.toNat / 8192 = 1 ∧ a.toNat % 8 = 5) := by
  have ha := a.isLt
  simp only [beq_eq_decide, decide_eq_decide, busKey_match, BitVec.reduceExtractLsb', and_ones1, and_ones2, and_ones3, and_ones8, BitVec.and_zero, true_and, and_true,
    ofBool_eq_zero, ofBool_eq_one, originBit_eq_zero, originBit_eq_one, BitVec.toNat_ofNat, Nat.reducePow, Nat.reduceMod, slice_eq]
  refine and_congr_right fun _ => and_congr_right fun _ => ?_
  omega

theorem row_wrScrollY (l w : Bool) (o : Origin) (a : Addr) (d : Byte) :
    (busKey l w o a d &&& 0x6E00700#27 == 0x6200500#27) = decide (l = true ∧ w = true ∧ a.toNat / 8192 = 1 ∧ a.toNat % 8 = 5) := by
  have ha := a.isLt
  simp only [beq_eq_decide, decide_eq_decide, busKey_match, BitVec.reduceExtractLsb', and_ones1, and_ones2, and_ones3, and_ones8, BitVec.and_zero, true_and, and_true,
    ofBool_eq_zero, ofBool_eq_one, originBit_eq_zero, originBit_eq_one, BitVec.toNat_ofNat, Nat.reducePow, Nat.reduceMod, slice_eq]
  refine and_congr_right fun _ => and_congr_right fun _ => ?_
  omega

theorem row_wrAddrHi (l w : Bool) (o : Origin) (a : Addr) (d : Byte) :
    (busKey l w o a d &&& 0x6E00700#27 == 0x2200600#27) = decide (l = false ∧ w = true ∧ a.toNat / 8192 = 1 ∧ a.toNat % 8 = 6) := by
  have ha := a.isLt
  simp only [beq_eq_decide, decide_eq_decide, busKey_match, BitVec.reduceExtractLsb', and_ones1, and_ones2, and_ones3, and_ones8, BitVec.and_zero, true_and, and_true,
    ofBool_eq_zero, ofBool_eq_one, originBit_eq_zero, originBit_eq_one, BitVec.toNat_ofNat, Nat.reducePow, Nat.reduceMod, slice_eq]
  refine and_congr_right fun _ => and_congr_right fun _ => ?_
  omega

theorem row_wrAddrLo (l w : Bool) (o : Origin) (a : Addr) (d : Byte) :
    (busKey l w o a d &&& 0x6E00700#27 == 0x6200600#27) = decide (l = true ∧ w = true ∧ a.toNat / 8192 = 1 ∧ a.toNat % 8 = 6) := by
  have ha := a.isLt
  simp only [beq_eq_decide, decide_eq_decide, busKey_match, BitVec.reduceExtractLsb', and_ones1, and_ones2, and_ones3, and_ones8, BitVec.and_zero, true_and, and_true,
    ofBool_eq_zero, ofBool_eq_one, originBit_eq_zero, originBit_eq_one, BitVec.toNat_ofNat, Nat.reducePow, Nat.reduceMod, slice_eq]
  refine and_congr_right fun _ => and_congr_right fun _ => ?_
  omega

theorem row_wrData (l w : Bool) (o : Origin) (a : Addr) (d : Byte) :
    (busKey l w o a d &&& 0x2E00700#27 == 0x2200700#27) = decide (w = true ∧ a.toNat / 8192 = 1 ∧ a.toNat % 8 = 7) := by
  have ha := a.isLt
  simp only [beq_eq_decide, decide_eq_decide, busKey_match, BitVec.reduceExtractLsb', and_ones1, and_ones2, and_ones3, and_ones8, BitVec.and_zero, true_and, and_true,
    ofBool_eq_zero, ofBool_eq_one, originBit_eq_zero, originBit_eq_one, BitVec.toNat_ofNat, Nat.reducePow, Nat.reduceMod, slice_eq]
  refine and_congr_right fun _ => ?_
  omega

theorem row_wrOamdma (l w : Bool) (o : Origin) (a : Addr) (d : Byte) :
    (busKey l w o a d &&& 0x2FFFF00#27 == 0x2401400#27) = decide (w = true ∧ a.toNat = 16404) := by
  have ha := a.isLt
  simp only [beq_eq_decide, decide_eq_decide, busKey_match, BitVec.reduceExtractLsb', and_ones1, and_ones2, and_ones3, and_ones8, BitVec.and_zero, true_and, and_true,
    ofBool_eq_zero, ofBool_eq_one, originBit_eq_zero, originBit_eq_one, BitVec.toNat_ofNat, Nat.reducePow, Nat.reduceMod, slice_eq]
  refine and_congr_right fun _ => ?_
  omega

theorem row_rdApustat (l w : Bool) (o : Origin) (a : Addr) (d : Byte) :
    (busKey l w o a d &&& 0x2FFFF00#27 == 0x0401500#27) = decide (w = false ∧ a.toNat = 16405) := by
  have ha := a.isLt
  simp only [beq_eq_decide, decide_eq_decide, busKey_match, BitVec.reduceExtractLsb', and_ones1, and_ones2, and_ones3, and_ones8, BitVec.and_zero, true_and, and_true,
    ofBool_eq_zero, ofBool_eq_one, originBit_eq_zero, originBit_eq_one, BitVec.toNat_ofNat, Nat.reducePow, Nat.reduceMod, slice_eq]
  refine and_congr_right fun _ => ?_
  omega

theorem row_wrApu (l w : Bool) (o : Origin) (a : Addr) (d : Byte) :
    (busKey l w o a d &&& 0x2FFFF00#27 == 0x2401500#27) = decide (w = true ∧ a.toNat = 16405) := by
  have ha := a.isLt
  simp only [beq_eq_decide, decide_eq_decide, busKey_match, BitVec.reduceExtractLsb', and_ones1, and_ones2, and_ones3, and_ones8, BitVec.and_zero, true_and, and_true,
    ofBool_eq_zero, ofBool_eq_one, originBit_eq_zero, originBit_eq_one, BitVec.toNat_ofNat, Nat.reducePow, Nat.reduceMod, slice_eq]
  refine and_congr_right fun _ => ?_
  omega

theorem row_rdJoy1 (l w : Bool) (o : Origin) (a : Addr) (d : Byte) :
    (busKey l w o a d &&& 0x2FFFF00#27 == 0x0401600#27) = decide (w = false ∧ a.toNat = 16406) := by
  have ha := a.isLt
  simp only [beq_eq_decide, decide_eq_decide, busKey_match, BitVec.reduceExtractLsb', and_ones1, and_ones2, and_ones3, and_ones8, BitVec.and_zero, true_and, and_true,
    ofBool_eq_zero, ofBool_eq_one, originBit_eq_zero, originBit_eq_one, BitVec.toNat_ofNat, Nat.reducePow, Nat.reduceMod, slice_eq]
  refine and_congr_right fun _ => ?_
  omega

theorem row_wrJoy1 (l w : Bool) (o : Origin) (a : Addr) (d : Byte) :
    (busKey l w o a d &&& 0x2FFFF00#27 == 0x2401600#27) = decide (w = true ∧ a.toNat = 16406) := by
  have ha := a.isLt
  simp only [beq_eq_decide, decide_eq_decide, busKey_match, BitVec.reduceExtractLsb', and_ones1, and_ones2, and_ones3, and_ones8, BitVec.and_zero, true_and, and_true,
    ofBool_eq_zero, ofBool_eq_one, originBit_eq_zero, originBit_eq_one, BitVec.toNat_ofNat, Nat.reducePow, Nat.reduceMod, slice_eq]
  refine and_congr_right fun _ => ?_
  omega

theorem row_rdJoy2 (l w : Bool) (o : Origin) (a : Addr) (d : Byte) :
    (busKey l w o a d &&& 0x2FFFF00#27 == 0x0401700#27) = decide (w = false ∧ a.toNat = 16407) := by
  have ha := a.isLt
  simp only [beq_eq_decide, decide_eq_decide, busKey_match, BitVec.reduceExtractLsb', and_ones1, and_ones2, and_ones3, and_ones8, BitVec.and_zero, true_and, and_true,
    ofBool_eq_zero, ofBool_eq_one, originBit_eq_zero, originBit_eq_one, BitVec.toNat_ofNat, Nat.reducePow, Nat.reduceMod, slice_eq]
  refine and_congr_right fun _ => ?_
  omega

theorem row_wrJoy2 (l w : Bool) (o : Origin) (a : Addr) (d : Byte) :
    (busKey l w o a d &&& 0x2FFFF00#27 == 0x2401700#27) = decide (w = true ∧ a.toNat = 16407) := by
  have ha := a.isLt
  simp only [beq_eq_decide, decide_eq_decide, busKey_match, BitVec.reduceExtractLsb', and_ones1, and_ones2, and_ones3, and_ones8, BitVec.and_zero, true_and, and_true,
    ofBool_eq_zero, ofBool_eq_one, originBit_eq_zero, originBit_eq_one, BitVec.toNat_ofNat, Nat.reducePow, Nat.reduceMod, slice_eq]
  refine and_congr_right fun _ => ?_
  omega

theorem row_rdOpen (l w : Bool) (o : Origin) (a : Addr) (d : Byte) :
    (busKey l w o a d &&& 0x2FFE000#27 == 0x0400000#27) = decide (w = false ∧ a.toNat / 32 = 512) := by
  have ha := a.isLt
  simp only [beq_eq_decide, decide_eq_decide, busKey_match, BitVec.reduceExtractLsb', and_ones1, and_ones2, and_ones3, and_ones8, BitVec.and_zero, true_and, and_true,
    ofBool_eq_zero, ofBool_eq_one, originBit_eq_zero, originBit_eq_one, BitVec.toNat_ofNat, Nat.reducePow, Nat.reduceMod, slice_eq]
  refine and_congr_right fun _ => ?_
  omega

theorem row_wrOpen (l w : Bool) (o : Origin) (a : Addr) (d : Byte) :
    (busKey l w o a d &&& 0x2FFE000#27 == 0x2400000#27) = decide (w = true ∧ a.toNat / 32 = 512) := by
  have ha := a.isLt
  simp only [beq_eq_decide, decide_eq_decide, busKey_match, BitVec.reduceExtractLsb', and_ones1, and_ones2, and_ones3, and_ones8, BitVec.and_zero, true_and, and_true,
    ofBool_eq_zero, ofBool_eq_one, originBit_eq_zero, originBit_eq_one, BitVec.toNat_ofNat, Nat.reducePow, Nat.reduceMod, slice_eq]
  refine and_congr_right fun _ => ?_
  omega

theorem row_rdCartlo (l w : Bool) (o : Origin) (a : Addr) (d : Byte) :
    (busKey l w o a d &&& 0x2C00000#27 == 0x0400000#27) = decide (w = false ∧ a.toNat / 16384 = 1) := by
  have ha := a.isLt
  simp only [beq_eq_decide, decide_eq_decide, busKey_match, BitVec.reduceExtractLsb', and_ones1, and_ones2, and_ones3, and_ones8, BitVec.and_zero, true_and, and_true,
    ofBool_eq_zero, ofBool_eq_one, originBit_eq_zero, originBit_eq_one, BitVec.toNat_ofNat, Nat.reducePow, Nat.reduceMod, slice_eq]
  refine and_congr_right fun _ => ?_
  omega

theorem row_wrCartlo (l w : Bool) (o : Origin) (a : Addr) (d : Byte) :
    (busKey l w o a d &&& 0x2C00000#27 == 0x2400000#27) = decide (w = true ∧ a.toNat / 16384 = 1) := by
  have ha := a.isLt
  simp only [beq_eq_decide, decide_eq_decide, busKey_match, BitVec.reduceExtractLsb', and_ones1, and_ones2, and_ones3, and_ones8, BitVec.and_zero, true_and, and_true,
    ofBool_eq_zero, ofBool_eq_one, originBit_eq_zero, originBit_eq_one, BitVec.toNat_ofNat, Nat.reducePow, Nat.reduceMod, slice_eq]
  refine and_congr_right fun _ => ?_
  omega

theorem row_rdPrg (l w : Bool) (o : Origin) (a : Addr) (d : Byte) :
    (busKey l w o a d &&& 0x2800000#27 == 0x0800000#27) = decide (w = false ∧ a.toNat / 32768 = 1) := by
  have ha := a.isLt
  simp only [beq_eq_decide, decide_eq_decide, busKey_match, BitVec.reduceExtractLsb', and_ones1, and_ones2, and_ones3, and_ones8, BitVec.and_zero, true_and, and_true,
    ofBool_eq_zero, ofBool_eq_one, originBit_eq_zero, originBit_eq_one, BitVec.toNat_ofNat, Nat.reducePow, Nat.reduceMod, slice_eq]
  refine and_congr_right fun _ => ?_
  omega

theorem row_wrPrg (l w : Bool) (o : Origin) (a : Addr) (d : Byte) :
    (busKey l w o a d &&& 0x2800000#27 == 0x2800000#27) = decide (w = true ∧ a.toNat / 32768 = 1) := by
  have ha := a.isLt
  simp only [beq_eq_decide, decide_eq_decide, busKey_match, BitVec.reduceExtractLsb', and_ones1, and_ones2, and_ones3, and_ones8, BitVec.and_zero, true_and, and_true,
    ofBool_eq_zero, ofBool_eq_one, originBit_eq_zero, originBit_eq_one, BitVec.toNat_ofNat, Nat.reducePow, Nat.reduceMod, slice_eq]
  refine and_congr_right fun _ => ?_
  omega

/-! What a BUS key decodes to. -/

/-- The operation of register index `n` (R49). -/
def portInstr (l w : Bool) (n : Nat) (x : Access) (d : Byte) : Instr :=
  match n, w with
  | 0, false => .rdCtrl x
  | 1, false => .rdMask x
  | 2, false => .rdStatus x
  | 3, false => .rdOamaddr x
  | 4, false => .rdOamdata x
  | 5, false => .rdScroll x
  | 6, false => .rdAddr x
  | _, false => .rdData x
  | 0, true => .wrCtrl x d
  | 1, true => .wrMask x d
  | 2, true => .wrStatus x d
  | 3, true => .wrOamaddr x d
  | 4, true => .wrOamdata x d
  | 5, true => if l then .wrScrollY x d else .wrScrollX x d
  | 6, true => if l then .wrAddrLo x d else .wrAddrHi x d
  | _, true => .wrData x d

/-- The operation of a bus transaction by the range of its translated address: the map of R61 and R120. -/
def busInstr (l w : Bool) (x : Access) (d : Byte) : Instr :=
  let a := x.physical.toNat
  if a < 0x2000 then
    match x.origin, w with
    | .cpu, false => .rdRam x
    | .cpu, true => .wrRam x d
    | .ppu, false => .prdChr x
    | .ppu, true => .pwrChr x d
  else if a < 0x4000 then portInstr l w (a % 8) x d
  else if a = 0x4014 ∧ w = true then .wrOamdma x d
  else if a = 0x4015 then (if w then .wrApu x d else .rdApustat x)
  else if a = 0x4016 then (if w then .wrJoy1 x d else .rdJoy1 x)
  else if a = 0x4017 then (if w then .wrJoy2 x d else .rdJoy2 x)
  else if a < 0x4020 then (if w then .wrOpen x d else .rdOpen x)
  else if a < 0x8000 then (if w then .wrCartlo x d else .rdCartlo x)
  else (if w then .wrPrg x d else .rdPrg x)

@[simp] theorem busKeyA_busKey (l w : Bool) (o : Origin) (a : Addr) (d : Byte) : busKeyA (busKey l w o a d) = a :=
  busKey_slice_addr l w o a d

@[simp] theorem busKeyD_busKey (l w : Bool) (o : Origin) (a : Addr) (d : Byte) : busKeyD (busKey l w o a d) = d :=
  busKey_slice_d l w o a d

theorem getLsbD_of_slice (k : BitVec 27) (i : Nat) (b : Bool) (h : k.extractLsb' i 1 = BitVec.ofBool b) : k.getLsbD i = b := by
  have := congrArg (fun x => x.getLsbD 0) h
  simpa using this

@[simp] theorem busKeyL_busKey (l w : Bool) (o : Origin) (a : Addr) (d : Byte) : busKeyL (busKey l w o a d) = l :=
  getLsbD_of_slice _ _ _ (busKey_slice_l l w o a d)

@[simp] theorem busKeyW_busKey (l w : Bool) (o : Origin) (a : Addr) (d : Byte) : busKeyW (busKey l w o a d) = w :=
  getLsbD_of_slice _ _ _ (busKey_slice_w l w o a d)

@[simp] theorem busKeyO_busKey (l w : Bool) (o : Origin) (a : Addr) (d : Byte) : busKeyO (busKey l w o a d) = o := by
  cases o
  · rw [busKeyO, getLsbD_of_slice _ 24 false (busKey_slice_o l w _ a d)]; rfl
  · rw [busKeyO, getLsbD_of_slice _ 24 true (busKey_slice_o l w _ a d)]; rfl

/-- The address is in none of the exact IO rows. -/
theorem ne_io (n : Nat) (h : n < 0x4014 ∨ 0x4017 < n) : n ≠ 16404 ∧ n ≠ 16405 ∧ n ≠ 16406 ∧ n ≠ 16407 := by omega

variable (l w : Bool) (o : Origin) (a : Addr) (d : Byte) (lg : Addr)

/-- The table as a chain of tests on the key's fields. -/
theorem decodeBusKey_low (h1 : a.toNat < 0x2000) :
    decodeBusKey (busKey l w o a d) lg = some (busInstr l w { origin := o, logical := lg, physical := a } d) := by
  have e1 : a.toNat / 8192 = 0 := by omega
  simp only [decodeBusKey, busTable, busRowsLow, busRowsPortRead, busRowsPortWrite, busRowsIo, busRowsRest,
    List.cons_append, List.nil_append, List.find?_cons, busKeyO_busKey, busKeyA_busKey, busKeyD_busKey, row_rdRam, row_wrRam, row_prdChr, row_pwrChr, row_rdCtrl, row_rdMask, row_rdStatus, row_rdOamaddr, row_rdOamdata,
    row_rdScroll, row_rdAddr, row_rdData, row_wrCtrl, row_wrMask, row_wrStatus, row_wrOamaddr, row_wrOamdata, row_wrScrollX,
    row_wrScrollY, row_wrAddrHi, row_wrAddrLo, row_wrData, row_wrOamdma, row_rdApustat, row_wrApu, row_rdJoy1, row_wrJoy1,
    row_rdJoy2, row_wrJoy2, row_rdOpen, row_wrOpen, row_rdCartlo, row_wrCartlo, row_rdPrg, row_wrPrg]
  cases w <;> cases o <;> simp [busInstr, h1, e1]

theorem decodeBusKey_port (h1 : ¬a.toNat < 0x2000) (h2 : a.toNat < 0x4000) :
    decodeBusKey (busKey l w o a d) lg = some (busInstr l w { origin := o, logical := lg, physical := a } d) := by
  have e1 : a.toNat / 8192 = 1 := by omega
  have h8 : a.toNat % 8 < 8 := by omega
  simp only [busInstr, if_neg h1, if_pos h2]
  simp only [decodeBusKey, busTable, busRowsLow, busRowsPortRead, busRowsPortWrite, busRowsIo, busRowsRest,
    List.cons_append, List.nil_append, List.find?_cons, busKeyO_busKey, busKeyA_busKey, busKeyD_busKey, row_rdRam, row_wrRam, row_prdChr, row_pwrChr, row_rdCtrl, row_rdMask, row_rdStatus, row_rdOamaddr, row_rdOamdata,
    row_rdScroll, row_rdAddr, row_rdData, row_wrCtrl, row_wrMask, row_wrStatus, row_wrOamaddr, row_wrOamdata, row_wrScrollX,
    row_wrScrollY, row_wrAddrHi, row_wrAddrLo, row_wrData, row_wrOamdma, row_rdApustat, row_wrApu, row_rdJoy1, row_wrJoy1,
    row_rdJoy2, row_wrJoy2, row_rdOpen, row_wrOpen, row_rdCartlo, row_wrCartlo, row_rdPrg, row_wrPrg, e1]
  generalize a.toNat % 8 = n at h8
  obtain rfl | rfl | rfl | rfl | rfl | rfl | rfl | rfl :
      n = 0 ∨ n = 1 ∨ n = 2 ∨ n = 3 ∨ n = 4 ∨ n = 5 ∨ n = 6 ∨ n = 7 := by omega
  all_goals cases w <;> cases l <;> simp [portInstr]

theorem decodeBusKey_io (h1 : ¬a.toNat < 0x2000) (h2 : ¬a.toNat < 0x4000) (h3 : a.toNat < 0x4020) :
    decodeBusKey (busKey l w o a d) lg = some (busInstr l w { origin := o, logical := lg, physical := a } d) := by
  have e1 : a.toNat / 8192 = 2 := by omega
  have e2 : a.toNat / 32 = 512 := by omega
  simp only [busInstr, if_neg h1, if_neg h2, if_pos h3]
  simp only [decodeBusKey, busTable, busRowsLow, busRowsPortRead, busRowsPortWrite, busRowsIo, busRowsRest,
    List.cons_append, List.nil_append, List.find?_cons, busKeyO_busKey, busKeyA_busKey, busKeyD_busKey, row_rdRam, row_wrRam, row_prdChr, row_pwrChr, row_rdCtrl, row_rdMask, row_rdStatus, row_rdOamaddr, row_rdOamdata,
    row_rdScroll, row_rdAddr, row_rdData, row_wrCtrl, row_wrMask, row_wrStatus, row_wrOamaddr, row_wrOamdata, row_wrScrollX,
    row_wrScrollY, row_wrAddrHi, row_wrAddrLo, row_wrData, row_wrOamdma, row_rdApustat, row_wrApu, row_rdJoy1, row_wrJoy1,
    row_rdJoy2, row_wrJoy2, row_rdOpen, row_wrOpen, row_rdCartlo, row_wrCartlo, row_rdPrg, row_wrPrg, e1, e2]
  by_cases c4 : a.toNat = 16404
  · cases w <;> simp [c4]
  by_cases c5 : a.toNat = 16405
  · cases w <;> simp [c5]
  by_cases c6 : a.toNat = 16406
  · cases w <;> simp [c6]
  by_cases c7 : a.toNat = 16407
  · cases w <;> simp [c7]
  · cases w <;> simp [c4, c5, c6, c7]

theorem decodeBusKey_cart (h3 : ¬a.toNat < 0x4020) :
    decodeBusKey (busKey l w o a d) lg = some (busInstr l w { origin := o, logical := lg, physical := a } d) := by
  have ha := a.isLt
  have h1 : ¬a.toNat < 0x2000 := by omega
  have h2 : ¬a.toNat < 0x4000 := by omega
  have e0 : a.toNat / 8192 ≠ 0 := by omega
  have e1 : a.toNat / 8192 ≠ 1 := by omega
  have e2 : a.toNat / 32 ≠ 512 := by omega
  obtain ⟨c4, c5, c6, c7⟩ := ne_io a.toNat (by omega)
  simp only [busInstr, if_neg h1, if_neg h2, if_neg h3]
  simp only [decodeBusKey, busTable, busRowsLow, busRowsPortRead, busRowsPortWrite, busRowsIo, busRowsRest,
    List.cons_append, List.nil_append, List.find?_cons, busKeyO_busKey, busKeyA_busKey, busKeyD_busKey, row_rdRam, row_wrRam, row_prdChr, row_pwrChr, row_rdCtrl, row_rdMask, row_rdStatus, row_rdOamaddr, row_rdOamdata,
    row_rdScroll, row_rdAddr, row_rdData, row_wrCtrl, row_wrMask, row_wrStatus, row_wrOamaddr, row_wrOamdata, row_wrScrollX,
    row_wrScrollY, row_wrAddrHi, row_wrAddrLo, row_wrData, row_wrOamdma, row_rdApustat, row_wrApu, row_rdJoy1, row_wrJoy1,
    row_rdJoy2, row_wrJoy2, row_rdOpen, row_wrOpen, row_rdCartlo, row_wrCartlo, row_rdPrg, row_wrPrg]
  by_cases h4 : a.toNat < 0x8000
  · have e3 : a.toNat / 16384 = 1 := by omega
    cases w <;> simp [h4, e0, e1, e2, e3, c4, c5, c6, c7]
  · have e3 : a.toNat / 16384 ≠ 1 := by omega
    have e4 : a.toNat / 32768 = 1 := by omega
    cases w <;> simp [h4, e0, e1, e2, e3, e4, c4, c5, c6, c7]

/-- The first-match table decodes a BUS key to busInstr: the whole of R102 in one equation. -/
theorem decodeBusKey_busKey :
    decodeBusKey (busKey l w o a d) lg = some (busInstr l w { origin := o, logical := lg, physical := a } d) := by
  by_cases h1 : a.toNat < 0x2000
  · exact decodeBusKey_low l w o a d lg h1
  by_cases h2 : a.toNat < 0x4000
  · exact decodeBusKey_port l w o a d lg h1 h2
  by_cases h3 : a.toNat < 0x4020
  · exact decodeBusKey_io l w o a d lg h1 h2 h3
  · exact decodeBusKey_cart l w o a d lg h3

omit l w o a d lg

/-- A BUS key is made of its fields. -/
theorem busKey_eta (k : BitVec 27) : busKey (busKeyL k) (busKeyW k) (busKeyO k) (busKeyA k) (busKeyD k) = k := by
  have slice1 : ∀ i, k.extractLsb' i 1 = BitVec.ofBool (k.getLsbD i) := by
    intro i
    apply BitVec.eq_of_getLsbD_eq
    intro j hj
    obtain rfl : j = 0 := by omega
    simp
  have ho : (Origin.ofBit (k.getLsbD 24)).bit = k.extractLsb' 24 1 := by
    rw [slice1]
    cases k.getLsbD 24 <;> rfl
  have addr : ∀ s n, s + n ≤ 16 → (k.extractLsb' 8 16).extractLsb' s n = k.extractLsb' (8 + s) n := by
    intro s n h
    apply BitVec.eq_of_getLsbD_eq
    intro i hi
    simp [hi, show s + i < 16 by omega, Nat.add_assoc]
  rw [eq_iff_slices]
  rw [show (23 : Nat) = 8 + 15 from rfl, show (22 : Nat) = 8 + 14 from rfl, show (21 : Nat) = 8 + 13 from rfl,
    show (13 : Nat) = 8 + 5 from rfl, show (11 : Nat) = 8 + 3 from rfl, busKey_slice_l, busKey_slice_w, busKey_slice_o,
    busKey_slice_d, busKey_slice_a _ _ _ _ _ (show 15 + 1 ≤ 16 by decide), busKey_slice_a _ _ _ _ _ (show 14 + 1 ≤ 16 by decide),
    busKey_slice_a _ _ _ _ _ (show (8 + 5) + 1 ≤ 16 by decide), busKey_slice_a _ _ _ _ _ (show 5 + 8 ≤ 16 by decide),
    busKey_slice_a _ _ _ _ _ (show 3 + 2 ≤ 16 by decide), busKey_slice_a0]
  simp only [busKeyL, busKeyW, busKeyO, busKeyA, busKeyD, ← slice1, ho, addr 15 1 (by decide), addr 14 1 (by decide),
    addr (8 + 5) 1 (by decide), addr 5 8 (by decide), addr 3 2 (by decide), addr 0 3 (by decide), Nat.add_zero, and_self]

/-- Every BUS key decodes (R102), to the operation of its fields. -/
theorem decodeKey_bus (k : BitVec 27) (lg : Addr) :
    decodeKey (.bus k lg) =
      .instr (busInstr (busKeyL k) (busKeyW k) { origin := busKeyO k, logical := lg, physical := busKeyA k } (busKeyD k)) := by
  have h := decodeBusKey_busKey (busKeyL k) (busKeyW k) (busKeyO k) (busKeyA k) (busKeyD k) lg
  rw [busKey_eta] at h
  simp only [decodeKey, h]

/-! VRAM keys. -/

/-- The operation of a data-port access by the region of its address (R68, R120). -/
def vramInstr (w : Bool) (p : PAddr) (d : Byte) : Instr :=
  if p.toNat < 0x2000 then (if w then .vwrPat p d else .vrdPat p)
  else if p.toNat < 0x3000 then (if w then .vwrNt p d else .vrdNt p)
  else if p.toNat < 0x3F00 then (if w then .vwrNtm p d else .vrdNtm p)
  else (if w then .vwrPal p d else .vrdPal p)

/-- Two VRAM keys agree when they agree on the slices that the table's masks are made of. -/
theorem eq_iff_slices23 (k v : BitVec 23) : k = v ↔
    k.extractLsb' 22 1 = v.extractLsb' 22 1 ∧ k.extractLsb' 21 1 = v.extractLsb' 21 1 ∧ k.extractLsb' 20 1 = v.extractLsb' 20 1 ∧
    k.extractLsb' 16 4 = v.extractLsb' 16 4 ∧ k.extractLsb' 8 8 = v.extractLsb' 8 8 ∧ k.extractLsb' 0 8 = v.extractLsb' 0 8 := by
  constructor
  · intro h; subst h; exact ⟨rfl, rfl, rfl, rfl, rfl, rfl⟩
  · rintro ⟨h22, h21, h20, h16, h8, h0⟩
    have bit : ∀ (s n j : Nat), k.extractLsb' s n = v.extractLsb' s n → j < n → k.getLsbD (s + j) = v.getLsbD (s + j) := by
      intro s n j h hj
      have := congrArg (fun x => x.getLsbD j) h
      simpa [hj] using this
    apply BitVec.eq_of_getLsbD_eq
    intro i hi
    by_cases c0 : i < 8
    · simpa using bit 0 8 i h0 c0
    by_cases c8 : i < 16
    · simpa [show 8 + (i - 8) = i by omega] using bit 8 8 (i - 8) h8 (by omega)
    by_cases c16 : i < 20
    · simpa [show 16 + (i - 16) = i by omega] using bit 16 4 (i - 16) h16 (by omega)
    obtain rfl | rfl | rfl : i = 20 ∨ i = 21 ∨ i = 22 := by omega
    · exact bit 20 1 0 h20 (by omega)
    · exact bit 21 1 0 h21 (by omega)
    · exact bit 22 1 0 h22 (by omega)

/-- The value of a VRAM key is the sum of its fields at their places. -/
theorem vramKey_toNat (w : Bool) (p : PAddr) (d : Byte) :
    (vramKey w p d).toNat = (w.toNat * 16384 + p.toNat) * 256 + d.toNat := by
  have h : (vramKey w p d).toNat = BitVec.toNat (w := 1 + 14 + 8) (BitVec.ofBool w ++ p ++ d) := rfl
  rw [h]
  simp only [append_toNat, BitVec.toNat_ofBool, Nat.reducePow]

theorem vramKey_fields (w p d : Nat) (hw : w < 2) (hp : p < 16384) (hd : d < 256) :
    let k := (w * 16384 + p) * 256 + d
    k / 4194304 % 2 = w ∧ k / 256 % 16384 = p ∧ k % 256 = d := by
  intro k
  omega

theorem vramKey_toNat_fields (w : Bool) (p : PAddr) (d : Byte) :
    (vramKey w p d).toNat / 4194304 % 2 = w.toNat ∧ (vramKey w p d).toNat / 256 % 16384 = p.toNat ∧
    (vramKey w p d).toNat % 256 = d.toNat := by
  rw [vramKey_toNat]
  exact vramKey_fields w.toNat p.toNat d.toNat w.toNat_lt p.isLt d.isLt

theorem slice23_eq (k : BitVec 23) (s n : Nat) (v : BitVec n) : (k.extractLsb' s n = v) = (k.toNat / 2 ^ s % 2 ^ n = v.toNat) := by
  rw [← BitVec.toNat_inj, BitVec.extractLsb'_toNat, Nat.shiftRight_eq_div_pow]

@[simp] theorem vramKey_slice_w (w : Bool) (p : PAddr) (d : Byte) : (vramKey w p d).extractLsb' 22 1 = BitVec.ofBool w := by
  rw [slice23_eq]
  exact (vramKey_toNat_fields w p d).1.trans (by cases w <;> rfl)

@[simp] theorem vramKey_slice_p (w : Bool) (p : PAddr) (d : Byte) : (vramKey w p d).extractLsb' 8 14 = p := by
  rw [slice23_eq]
  exact (vramKey_toNat_fields w p d).2.1

@[simp] theorem vramKey_slice_d (w : Bool) (p : PAddr) (d : Byte) : (vramKey w p d).extractLsb' 0 8 = d := by
  rw [slice23_eq, Nat.pow_zero, Nat.div_one]
  exact (vramKey_toNat_fields w p d).2.2

theorem vramKey_slice (w : Bool) (p : PAddr) (d : Byte) {s n : Nat} (h : s + n ≤ 14) :
    (vramKey w p d).extractLsb' (8 + s) n = p.extractLsb' s n := by
  apply BitVec.eq_of_getLsbD_eq
  intro i hi
  have := congrArg (fun x => x.getLsbD (s + i)) (vramKey_slice_p w p d)
  simp only [BitVec.getLsbD_extractLsb', show s + i < 14 by omega, hi, decide_true, Bool.true_and] at this ⊢
  rw [← this, Nat.add_assoc]

@[simp] theorem vramKeyW_vramKey (w : Bool) (p : PAddr) (d : Byte) : vramKeyW (vramKey w p d) = w := by
  have h := congrArg (fun x => x.getLsbD 0) (vramKey_slice_w w p d)
  simpa only [BitVec.getLsbD_extractLsb', Nat.add_zero, Nat.lt_one_iff, decide_true, Bool.true_and, BitVec.getLsbD_ofBool, vramKeyW] using h

@[simp] theorem vramKeyP_vramKey (w : Bool) (p : PAddr) (d : Byte) : vramKeyP (vramKey w p d) = p := vramKey_slice_p w p d

@[simp] theorem vramKeyD_vramKey (w : Bool) (p : PAddr) (d : Byte) : vramKeyD (vramKey w p d) = d := vramKey_slice_d w p d

@[simp] theorem and_ones4 (x : BitVec 4) : x &&& 15#4 = x := BitVec.and_allOnes

theorem slice14_eq (p : PAddr) (s n : Nat) (v : BitVec n) : (p.extractLsb' s n = v) = (p.toNat / 2 ^ s % 2 ^ n = v.toNat) := by
  rw [← BitVec.toNat_inj, BitVec.extractLsb'_toNat, Nat.shiftRight_eq_div_pow]

/-- A masked VRAM key equals a value when the key's slices under the mask do, in terms of the key's fields. -/
theorem vramKey_match (w : Bool) (p : PAddr) (d : Byte) (m v : BitVec 23) :
    (vramKey w p d &&& m = v) ↔
      BitVec.ofBool w &&& m.extractLsb' 22 1 = v.extractLsb' 22 1 ∧
      p.extractLsb' 13 1 &&& m.extractLsb' 21 1 = v.extractLsb' 21 1 ∧
      p.extractLsb' 12 1 &&& m.extractLsb' 20 1 = v.extractLsb' 20 1 ∧
      p.extractLsb' 8 4 &&& m.extractLsb' 16 4 = v.extractLsb' 16 4 ∧
      p.extractLsb' 0 8 &&& m.extractLsb' 8 8 = v.extractLsb' 8 8 ∧
      d &&& m.extractLsb' 0 8 = v.extractLsb' 0 8 := by
  have h0 : (vramKey w p d).extractLsb' 8 8 = p.extractLsb' 0 8 := vramKey_slice w p d (show 0 + 8 ≤ 14 by decide)
  rw [eq_iff_slices23]
  simp only [BitVec.extractLsb'_and, vramKey_slice_w, vramKey_slice_d, h0, show (21 : Nat) = 8 + 13 from rfl,
    show (20 : Nat) = 8 + 12 from rfl, show (16 : Nat) = 8 + 8 from rfl, vramKey_slice w p d (show 13 + 1 ≤ 14 by decide),
    vramKey_slice w p d (show 12 + 1 ≤ 14 by decide), vramKey_slice w p d (show 8 + 4 ≤ 14 by decide)]

theorem row_vrdPal (w : Bool) (p : PAddr) (d : Byte) :
    (vramKey w p d &&& 0x7F0000#23 == 0x3F0000#23) = decide (w = false ∧ p.toNat / 256 = 63) := by
  have hp := p.isLt
  simp only [beq_eq_decide, decide_eq_decide, vramKey_match, BitVec.reduceExtractLsb', and_ones1, and_ones4, and_ones8,
    BitVec.and_zero, true_and, and_true, ofBool_eq_zero, ofBool_eq_one, BitVec.toNat_ofNat, Nat.reducePow, Nat.reduceMod, slice14_eq]
  refine and_congr_right fun _ => ?_
  omega

theorem row_vwrPal (w : Bool) (p : PAddr) (d : Byte) :
    (vramKey w p d &&& 0x7F0000#23 == 0x7F0000#23) = decide (w = true ∧ p.toNat / 256 = 63) := by
  have hp := p.isLt
  simp only [beq_eq_decide, decide_eq_decide, vramKey_match, BitVec.reduceExtractLsb', and_ones1, and_ones4, and_ones8,
    BitVec.and_zero, true_and, and_true, ofBool_eq_zero, ofBool_eq_one, BitVec.toNat_ofNat, Nat.reducePow, Nat.reduceMod, slice14_eq]
  refine and_congr_right fun _ => ?_
  omega

theorem row_vrdNtm (w : Bool) (p : PAddr) (d : Byte) :
    (vramKey w p d &&& 0x700000#23 == 0x300000#23) = decide (w = false ∧ p.toNat / 4096 = 3) := by
  have hp := p.isLt
  simp only [beq_eq_decide, decide_eq_decide, vramKey_match, BitVec.reduceExtractLsb', and_ones1, and_ones4, and_ones8,
    BitVec.and_zero, true_and, and_true, ofBool_eq_zero, ofBool_eq_one, BitVec.toNat_ofNat, Nat.reducePow, Nat.reduceMod, slice14_eq]
  refine and_congr_right fun _ => ?_
  omega

theorem row_vwrNtm (w : Bool) (p : PAddr) (d : Byte) :
    (vramKey w p d &&& 0x700000#23 == 0x700000#23) = decide (w = true ∧ p.toNat / 4096 = 3) := by
  have hp := p.isLt
  simp only [beq_eq_decide, decide_eq_decide, vramKey_match, BitVec.reduceExtractLsb', and_ones1, and_ones4, and_ones8,
    BitVec.and_zero, true_and, and_true, ofBool_eq_zero, ofBool_eq_one, BitVec.toNat_ofNat, Nat.reducePow, Nat.reduceMod, slice14_eq]
  refine and_congr_right fun _ => ?_
  omega

theorem row_vrdNt (w : Bool) (p : PAddr) (d : Byte) :
    (vramKey w p d &&& 0x700000#23 == 0x200000#23) = decide (w = false ∧ p.toNat / 4096 = 2) := by
  have hp := p.isLt
  simp only [beq_eq_decide, decide_eq_decide, vramKey_match, BitVec.reduceExtractLsb', and_ones1, and_ones4, and_ones8,
    BitVec.and_zero, true_and, and_true, ofBool_eq_zero, ofBool_eq_one, BitVec.toNat_ofNat, Nat.reducePow, Nat.reduceMod, slice14_eq]
  refine and_congr_right fun _ => ?_
  omega

theorem row_vwrNt (w : Bool) (p : PAddr) (d : Byte) :
    (vramKey w p d &&& 0x700000#23 == 0x600000#23) = decide (w = true ∧ p.toNat / 4096 = 2) := by
  have hp := p.isLt
  simp only [beq_eq_decide, decide_eq_decide, vramKey_match, BitVec.reduceExtractLsb', and_ones1, and_ones4, and_ones8,
    BitVec.and_zero, true_and, and_true, ofBool_eq_zero, ofBool_eq_one, BitVec.toNat_ofNat, Nat.reducePow, Nat.reduceMod, slice14_eq]
  refine and_congr_right fun _ => ?_
  omega

theorem row_vrdPat (w : Bool) (p : PAddr) (d : Byte) :
    (vramKey w p d &&& 0x600000#23 == 0x000000#23) = decide (w = false ∧ p.toNat / 8192 = 0) := by
  have hp := p.isLt
  simp only [beq_eq_decide, decide_eq_decide, vramKey_match, BitVec.reduceExtractLsb', and_ones1, and_ones4, and_ones8,
    BitVec.and_zero, true_and, and_true, ofBool_eq_zero, ofBool_eq_one, BitVec.toNat_ofNat, Nat.reducePow, Nat.reduceMod, slice14_eq]
  refine and_congr_right fun _ => ?_
  omega

theorem row_vwrPat (w : Bool) (p : PAddr) (d : Byte) :
    (vramKey w p d &&& 0x600000#23 == 0x400000#23) = decide (w = true ∧ p.toNat / 8192 = 0) := by
  have hp := p.isLt
  simp only [beq_eq_decide, decide_eq_decide, vramKey_match, BitVec.reduceExtractLsb', and_ones1, and_ones4, and_ones8,
    BitVec.and_zero, true_and, and_true, ofBool_eq_zero, ofBool_eq_one, BitVec.toNat_ofNat, Nat.reducePow, Nat.reduceMod, slice14_eq]
  refine and_congr_right fun _ => ?_
  omega

/-- The first-match table decodes a VRAM key to vramInstr: the whole of R103 in one equation. -/
theorem decodeVramKey_vramKey (w : Bool) (p : PAddr) (d : Byte) :
    decodeVramKey (vramKey w p d) = some (vramInstr w p d) := by
  have hp := p.isLt
  simp only [decodeVramKey, vramTable, List.find?_cons, vramKeyP_vramKey, vramKeyD_vramKey,
    row_vrdPal, row_vwrPal, row_vrdNtm, row_vwrNtm, row_vrdNt, row_vwrNt, row_vrdPat, row_vwrPat]
  by_cases h1 : p.toNat < 0x2000
  · have e0 : p.toNat / 8192 = 0 := by omega
    have e1 : p.toNat / 256 ≠ 63 := by omega
    have e2 : p.toNat / 4096 ≠ 3 := by omega
    have e3 : p.toNat / 4096 ≠ 2 := by omega
    cases w <;> simp [vramInstr, h1, e0, e1, e2, e3]
  by_cases h2 : p.toNat < 0x3000
  · have e1 : p.toNat / 256 ≠ 63 := by omega
    have e2 : p.toNat / 4096 = 2 := by omega
    cases w <;> simp [vramInstr, h1, h2, e1, e2]
  by_cases h3 : p.toNat < 0x3F00
  · have e1 : p.toNat / 256 ≠ 63 := by omega
    have e2 : p.toNat / 4096 = 3 := by omega
    cases w <;> simp [vramInstr, h1, h2, h3, e1, e2]
  · have e1 : p.toNat / 256 = 63 := by omega
    cases w <;> simp [vramInstr, h1, h2, h3, e1]

/-- A VRAM key is made of its fields. -/
theorem vramKey_eta (k : BitVec 23) : vramKey (vramKeyW k) (vramKeyP k) (vramKeyD k) = k := by
  have slice1 : k.extractLsb' 22 1 = BitVec.ofBool (k.getLsbD 22) := by
    apply BitVec.eq_of_getLsbD_eq
    intro j hj
    obtain rfl : j = 0 := by omega
    simp
  have addr : ∀ s n, s + n ≤ 14 → (vramKey (vramKeyW k) (vramKeyP k) (vramKeyD k)).extractLsb' (8 + s) n = k.extractLsb' (8 + s) n := by
    intro s n h
    rw [vramKey_slice _ _ _ h]
    apply BitVec.eq_of_getLsbD_eq
    intro i hi
    simp [vramKeyP, hi, show s + i < 14 by omega, Nat.add_assoc]
  rw [eq_iff_slices23]
  exact ⟨(vramKey_slice_w _ _ _).trans slice1.symm, addr 13 1 (by decide), addr 12 1 (by decide), addr 8 4 (by decide),
    addr 0 8 (by decide), vramKey_slice_d _ _ _⟩

/-- Every VRAM key decodes (R103), to the operation of its fields. -/
theorem decodeKey_vram (k : BitVec 23) :
    decodeKey (.vram k) = .instr (vramInstr (vramKeyW k) (vramKeyP k) (vramKeyD k)) := by
  have h := decodeVramKey_vramKey (vramKeyW k) (vramKeyP k) (vramKeyD k)
  rw [vramKey_eta] at h
  simp only [decodeKey, h]

/-! Packets. -/

/-- Two adjoining slices are one. -/
theorem extract_append {w : Nat} (k : BitVec w) (s n m : Nat) :
    k.extractLsb' (s + n) m ++ k.extractLsb' s n = k.extractLsb' s (m + n) := by
  apply BitVec.eq_of_getLsbD_eq
  intro i hi
  by_cases c : i < n
  · simp only [BitVec.getLsbD_append, BitVec.getLsbD_extractLsb', c, hi, decide_true, Bool.true_and, if_true]
  · simp only [BitVec.getLsbD_append, BitVec.getLsbD_extractLsb', c, hi, decide_true, Bool.true_and, if_false,
      show i - n < m by omega, show s + n + (i - n) = s + i by omega]

/-- The low slice of an append is its low part. -/
theorem extract_append_low {m n : Nat} (x : BitVec m) (y : BitVec n) : (x ++ y).extractLsb' 0 n = y := by
  apply BitVec.eq_of_getLsbD_eq
  intro i hi
  simp [BitVec.getLsbD_append, hi]

/-- The whole of a vector as a slice. -/
theorem extract_all {w : Nat} (k : BitVec w) : k.extractLsb' 0 w = k := by
  apply BitVec.eq_of_getLsbD_eq
  intro i hi
  simp [hi]

/-- The bytes of a key read back as the key. -/
theorem parsePacket_bytes (k : Key) : parsePacket k.format k.bytes = .ok k := by
  cases k with
  | bus k lg =>
    have hz : ((0#5 ++ k.extractLsb' 24 3).extractLsb' 3 5).toNat = 0 := by
      have : (k.extractLsb' 24 3).toNat < 8 := (k.extractLsb' 24 3).isLt
      rw [BitVec.extractLsb'_toNat, append_toNat, Nat.shiftRight_eq_div_pow]
      simp only [BitVec.toNat_ofNat, Nat.reducePow]
      omega
    have hk : ((0#5 ++ k.extractLsb' 24 3).extractLsb' 0 3 ++ k.extractLsb' 16 8 ++ k.extractLsb' 8 8 ++ k.extractLsb' 0 8 : BitVec 27) = k := by
      have e0 : (0#5 ++ k.extractLsb' 24 3).extractLsb' 0 3 = k.extractLsb' 24 3 := extract_append_low _ _
      have e1 : k.extractLsb' 24 3 ++ k.extractLsb' 16 8 = k.extractLsb' 16 11 := extract_append k 16 8 3
      have e2 : k.extractLsb' 16 11 ++ k.extractLsb' 8 8 = k.extractLsb' 8 19 := extract_append k 8 8 11
      have e3 : k.extractLsb' 8 19 ++ k.extractLsb' 0 8 = k.extractLsb' 0 27 := extract_append k 0 8 19
      rw [e0, e1, e2, e3, extract_all]
    have hd : ∀ x : Addr, x.extractLsb' 8 8 ++ x.extractLsb' 0 8 = x := fun x => (extract_append x 0 8 8).trans (extract_all x)
    simp only [Key.format, Key.bytes, parsePacket, hz, if_pos, hk, hd]
    rw [BitVec.add_comm, BitVec.sub_add_cancel]
  | vram k =>
    have hz : ((0#1 ++ k.extractLsb' 16 7).extractLsb' 7 1).toNat = 0 := by
      have : (k.extractLsb' 16 7).toNat < 128 := (k.extractLsb' 16 7).isLt
      rw [BitVec.extractLsb'_toNat, append_toNat, Nat.shiftRight_eq_div_pow]
      simp only [BitVec.toNat_ofNat, Nat.reducePow]
      omega
    have hk : ((0#1 ++ k.extractLsb' 16 7).extractLsb' 0 7 ++ k.extractLsb' 8 8 ++ k.extractLsb' 0 8 : BitVec 23) = k := by
      have e0 : (0#1 ++ k.extractLsb' 16 7).extractLsb' 0 7 = k.extractLsb' 16 7 := extract_append_low _ _
      have e1 : k.extractLsb' 16 7 ++ k.extractLsb' 8 8 = k.extractLsb' 8 15 := extract_append k 8 8 7
      have e2 : k.extractLsb' 8 15 ++ k.extractLsb' 0 8 = k.extractLsb' 0 23 := extract_append k 0 8 15
      rw [e0, e1, e2, extract_all]
    simp only [Key.format, Key.bytes, parsePacket, hz, if_pos, hk]
  | host op image =>
    have hz : ((0#4 ++ op).extractLsb' 4 4).toNat = 0 := by
      have : op.toNat < 16 := op.isLt
      rw [BitVec.extractLsb'_toNat, append_toNat, Nat.shiftRight_eq_div_pow]
      simp only [BitVec.toNat_ofNat, Nat.reducePow]
      omega
    have hk : (0#4 ++ op).extractLsb' 0 4 = op := extract_append_low _ _
    simp only [Key.format, Key.bytes, parsePacket, hz, if_pos, hk]

/-- The decoder on an encoded operation is the decoder on its key. -/
theorem decode_encode_key (i : Instr) : decode (encode i).1 (encode i).2 = decodeKey (encodeKey i) := by
  simp only [encode, decode, parsePacket_bytes]

end Sys2Proof
end

