-- ==== Sys2Proof/Laws/State.lean ====
section
/-! SUPPORT. One lemma per field per named update of State, each true by rfl, so that a record update is never unfolded. -/

namespace Sys2Proof.Machine

variable (s : State)

/-! emit -/

@[simp] theorem State.emit_ctrl (e : Event) : (s.emit e).ctrl = s.ctrl := rfl
@[simp] theorem State.emit_mask (e : Event) : (s.emit e).mask = s.mask := rfl
@[simp] theorem State.emit_vblank (e : Event) : (s.emit e).vblank = s.vblank := rfl
@[simp] theorem State.emit_oamAddr (e : Event) : (s.emit e).oamAddr = s.oamAddr := rfl
@[simp] theorem State.emit_scrollX (e : Event) : (s.emit e).scrollX = s.scrollX := rfl
@[simp] theorem State.emit_scrollY (e : Event) : (s.emit e).scrollY = s.scrollY := rfl
@[simp] theorem State.emit_v (e : Event) : (s.emit e).v = s.v := rfl
@[simp] theorem State.emit_t (e : Event) : (s.emit e).t = s.t := rfl
@[simp] theorem State.emit_w (e : Event) : (s.emit e).w = s.w := rfl
@[simp] theorem State.emit_ntDirty (e : Event) : (s.emit e).ntDirty = s.ntDirty := rfl
@[simp] theorem State.emit_ram (e : Event) : (s.emit e).ram = s.ram := rfl
@[simp] theorem State.emit_nt (e : Event) : (s.emit e).nt = s.nt := rfl
@[simp] theorem State.emit_pal (e : Event) : (s.emit e).pal = s.pal := rfl
@[simp] theorem State.emit_oam (e : Event) : (s.emit e).oam = s.oam := rfl
@[simp] theorem State.emit_fb (e : Event) : (s.emit e).fb = s.fb := rfl
@[simp] theorem State.emit_cart (e : Event) : (s.emit e).cart = s.cart := rfl
@[simp] theorem State.emit_trace (e : Event) : (s.emit e).trace = s.trace ++ [e] := rfl
@[simp] theorem State.emit_powerOn (e : Event) : (s.emit e).powerOn = s.powerOn := rfl
@[simp] theorem State.emit_draws (e : Event) : (s.emit e).draws = s.draws := rfl
@[simp] theorem State.emit_replies (e : Event) : (s.emit e).replies = s.replies := rfl
@[simp] theorem State.emit_requests (e : Event) : (s.emit e).requests = s.requests := rfl

/-! statusRead -/

@[simp] theorem State.statusRead_ctrl : (s.statusRead).ctrl = s.ctrl := rfl
@[simp] theorem State.statusRead_mask : (s.statusRead).mask = s.mask := rfl
@[simp] theorem State.statusRead_vblank : (s.statusRead).vblank = false := rfl
@[simp] theorem State.statusRead_oamAddr : (s.statusRead).oamAddr = s.oamAddr := rfl
@[simp] theorem State.statusRead_scrollX : (s.statusRead).scrollX = s.scrollX := rfl
@[simp] theorem State.statusRead_scrollY : (s.statusRead).scrollY = s.scrollY := rfl
@[simp] theorem State.statusRead_v : (s.statusRead).v = s.v := rfl
@[simp] theorem State.statusRead_t : (s.statusRead).t = s.t := rfl
@[simp] theorem State.statusRead_w : (s.statusRead).w = false := rfl
@[simp] theorem State.statusRead_ntDirty : (s.statusRead).ntDirty = s.ntDirty := rfl
@[simp] theorem State.statusRead_ram : (s.statusRead).ram = s.ram := rfl
@[simp] theorem State.statusRead_nt : (s.statusRead).nt = s.nt := rfl
@[simp] theorem State.statusRead_pal : (s.statusRead).pal = s.pal := rfl
@[simp] theorem State.statusRead_oam : (s.statusRead).oam = s.oam := rfl
@[simp] theorem State.statusRead_fb : (s.statusRead).fb = s.fb := rfl
@[simp] theorem State.statusRead_cart : (s.statusRead).cart = s.cart := rfl
@[simp] theorem State.statusRead_trace : (s.statusRead).trace = s.trace := rfl
@[simp] theorem State.statusRead_powerOn : (s.statusRead).powerOn = s.powerOn := rfl
@[simp] theorem State.statusRead_draws : (s.statusRead).draws = s.draws := rfl
@[simp] theorem State.statusRead_replies : (s.statusRead).replies = s.replies := rfl
@[simp] theorem State.statusRead_requests : (s.statusRead).requests = s.requests := rfl

/-! markDirty -/

@[simp] theorem State.markDirty_ctrl : (s.markDirty).ctrl = s.ctrl := rfl
@[simp] theorem State.markDirty_mask : (s.markDirty).mask = s.mask := rfl
@[simp] theorem State.markDirty_vblank : (s.markDirty).vblank = s.vblank := rfl
@[simp] theorem State.markDirty_oamAddr : (s.markDirty).oamAddr = s.oamAddr := rfl
@[simp] theorem State.markDirty_scrollX : (s.markDirty).scrollX = s.scrollX := rfl
@[simp] theorem State.markDirty_scrollY : (s.markDirty).scrollY = s.scrollY := rfl
@[simp] theorem State.markDirty_v : (s.markDirty).v = s.v := rfl
@[simp] theorem State.markDirty_t : (s.markDirty).t = s.t := rfl
@[simp] theorem State.markDirty_w : (s.markDirty).w = s.w := rfl
@[simp] theorem State.markDirty_ntDirty : (s.markDirty).ntDirty = true := rfl
@[simp] theorem State.markDirty_ram : (s.markDirty).ram = s.ram := rfl
@[simp] theorem State.markDirty_nt : (s.markDirty).nt = s.nt := rfl
@[simp] theorem State.markDirty_pal : (s.markDirty).pal = s.pal := rfl
@[simp] theorem State.markDirty_oam : (s.markDirty).oam = s.oam := rfl
@[simp] theorem State.markDirty_fb : (s.markDirty).fb = s.fb := rfl
@[simp] theorem State.markDirty_cart : (s.markDirty).cart = s.cart := rfl
@[simp] theorem State.markDirty_trace : (s.markDirty).trace = s.trace := rfl
@[simp] theorem State.markDirty_powerOn : (s.markDirty).powerOn = s.powerOn := rfl
@[simp] theorem State.markDirty_draws : (s.markDirty).draws = s.draws := rfl
@[simp] theorem State.markDirty_replies : (s.markDirty).replies = s.replies := rfl
@[simp] theorem State.markDirty_requests : (s.markDirty).requests = s.requests := rfl

/-! clearDirty -/

@[simp] theorem State.clearDirty_ctrl : (s.clearDirty).ctrl = s.ctrl := rfl
@[simp] theorem State.clearDirty_mask : (s.clearDirty).mask = s.mask := rfl
@[simp] theorem State.clearDirty_vblank : (s.clearDirty).vblank = s.vblank := rfl
@[simp] theorem State.clearDirty_oamAddr : (s.clearDirty).oamAddr = s.oamAddr := rfl
@[simp] theorem State.clearDirty_scrollX : (s.clearDirty).scrollX = s.scrollX := rfl
@[simp] theorem State.clearDirty_scrollY : (s.clearDirty).scrollY = s.scrollY := rfl
@[simp] theorem State.clearDirty_v : (s.clearDirty).v = s.v := rfl
@[simp] theorem State.clearDirty_t : (s.clearDirty).t = s.t := rfl
@[simp] theorem State.clearDirty_w : (s.clearDirty).w = s.w := rfl
@[simp] theorem State.clearDirty_ntDirty : (s.clearDirty).ntDirty = false := rfl
@[simp] theorem State.clearDirty_ram : (s.clearDirty).ram = s.ram := rfl
@[simp] theorem State.clearDirty_nt : (s.clearDirty).nt = s.nt := rfl
@[simp] theorem State.clearDirty_pal : (s.clearDirty).pal = s.pal := rfl
@[simp] theorem State.clearDirty_oam : (s.clearDirty).oam = s.oam := rfl
@[simp] theorem State.clearDirty_fb : (s.clearDirty).fb = s.fb := rfl
@[simp] theorem State.clearDirty_cart : (s.clearDirty).cart = s.cart := rfl
@[simp] theorem State.clearDirty_trace : (s.clearDirty).trace = s.trace := rfl
@[simp] theorem State.clearDirty_powerOn : (s.clearDirty).powerOn = s.powerOn := rfl
@[simp] theorem State.clearDirty_draws : (s.clearDirty).draws = s.draws := rfl
@[simp] theorem State.clearDirty_replies : (s.clearDirty).replies = s.replies := rfl
@[simp] theorem State.clearDirty_requests : (s.clearDirty).requests = s.requests := rfl

/-! drawn -/

@[simp] theorem State.drawn_ctrl : (s.drawn).ctrl = s.ctrl := rfl
@[simp] theorem State.drawn_mask : (s.drawn).mask = s.mask := rfl
@[simp] theorem State.drawn_vblank : (s.drawn).vblank = s.vblank := rfl
@[simp] theorem State.drawn_oamAddr : (s.drawn).oamAddr = s.oamAddr := rfl
@[simp] theorem State.drawn_scrollX : (s.drawn).scrollX = s.scrollX := rfl
@[simp] theorem State.drawn_scrollY : (s.drawn).scrollY = s.scrollY := rfl
@[simp] theorem State.drawn_v : (s.drawn).v = s.v := rfl
@[simp] theorem State.drawn_t : (s.drawn).t = s.t := rfl
@[simp] theorem State.drawn_w : (s.drawn).w = s.w := rfl
@[simp] theorem State.drawn_ntDirty : (s.drawn).ntDirty = s.ntDirty := rfl
@[simp] theorem State.drawn_ram : (s.drawn).ram = s.ram := rfl
@[simp] theorem State.drawn_nt : (s.drawn).nt = s.nt := rfl
@[simp] theorem State.drawn_pal : (s.drawn).pal = s.pal := rfl
@[simp] theorem State.drawn_oam : (s.drawn).oam = s.oam := rfl
@[simp] theorem State.drawn_fb : (s.drawn).fb = s.fb := rfl
@[simp] theorem State.drawn_cart : (s.drawn).cart = s.cart := rfl
@[simp] theorem State.drawn_trace : (s.drawn).trace = s.trace := rfl
@[simp] theorem State.drawn_powerOn : (s.drawn).powerOn = s.powerOn := rfl
@[simp] theorem State.drawn_draws : (s.drawn).draws = s.draws + 1 := rfl
@[simp] theorem State.drawn_replies : (s.drawn).replies = s.replies := rfl
@[simp] theorem State.drawn_requests : (s.drawn).requests = s.requests := rfl

/-! advanceV -/

@[simp] theorem State.advanceV_ctrl : (s.advanceV).ctrl = s.ctrl := rfl
@[simp] theorem State.advanceV_mask : (s.advanceV).mask = s.mask := rfl
@[simp] theorem State.advanceV_vblank : (s.advanceV).vblank = s.vblank := rfl
@[simp] theorem State.advanceV_oamAddr : (s.advanceV).oamAddr = s.oamAddr := rfl
@[simp] theorem State.advanceV_scrollX : (s.advanceV).scrollX = s.scrollX := rfl
@[simp] theorem State.advanceV_scrollY : (s.advanceV).scrollY = s.scrollY := rfl
@[simp] theorem State.advanceV_v : (s.advanceV).v = s.v + ctrlIncrement s.ctrl := rfl
@[simp] theorem State.advanceV_t : (s.advanceV).t = s.t := rfl
@[simp] theorem State.advanceV_w : (s.advanceV).w = s.w := rfl
@[simp] theorem State.advanceV_ntDirty : (s.advanceV).ntDirty = s.ntDirty := rfl
@[simp] theorem State.advanceV_ram : (s.advanceV).ram = s.ram := rfl
@[simp] theorem State.advanceV_nt : (s.advanceV).nt = s.nt := rfl
@[simp] theorem State.advanceV_pal : (s.advanceV).pal = s.pal := rfl
@[simp] theorem State.advanceV_oam : (s.advanceV).oam = s.oam := rfl
@[simp] theorem State.advanceV_fb : (s.advanceV).fb = s.fb := rfl
@[simp] theorem State.advanceV_cart : (s.advanceV).cart = s.cart := rfl
@[simp] theorem State.advanceV_trace : (s.advanceV).trace = s.trace := rfl
@[simp] theorem State.advanceV_powerOn : (s.advanceV).powerOn = s.powerOn := rfl
@[simp] theorem State.advanceV_draws : (s.advanceV).draws = s.draws := rfl
@[simp] theorem State.advanceV_replies : (s.advanceV).replies = s.replies := rfl
@[simp] theorem State.advanceV_requests : (s.advanceV).requests = s.requests := rfl

/-! writeRam -/

@[simp] theorem State.writeRam_ctrl (i : Nat) (d : Byte) : (s.writeRam i d).ctrl = s.ctrl := rfl
@[simp] theorem State.writeRam_mask (i : Nat) (d : Byte) : (s.writeRam i d).mask = s.mask := rfl
@[simp] theorem State.writeRam_vblank (i : Nat) (d : Byte) : (s.writeRam i d).vblank = s.vblank := rfl
@[simp] theorem State.writeRam_oamAddr (i : Nat) (d : Byte) : (s.writeRam i d).oamAddr = s.oamAddr := rfl
@[simp] theorem State.writeRam_scrollX (i : Nat) (d : Byte) : (s.writeRam i d).scrollX = s.scrollX := rfl
@[simp] theorem State.writeRam_scrollY (i : Nat) (d : Byte) : (s.writeRam i d).scrollY = s.scrollY := rfl
@[simp] theorem State.writeRam_v (i : Nat) (d : Byte) : (s.writeRam i d).v = s.v := rfl
@[simp] theorem State.writeRam_t (i : Nat) (d : Byte) : (s.writeRam i d).t = s.t := rfl
@[simp] theorem State.writeRam_w (i : Nat) (d : Byte) : (s.writeRam i d).w = s.w := rfl
@[simp] theorem State.writeRam_ntDirty (i : Nat) (d : Byte) : (s.writeRam i d).ntDirty = s.ntDirty := rfl
@[simp] theorem State.writeRam_ram (i : Nat) (d : Byte) : (s.writeRam i d).ram = s.ram.write i d := rfl
@[simp] theorem State.writeRam_nt (i : Nat) (d : Byte) : (s.writeRam i d).nt = s.nt := rfl
@[simp] theorem State.writeRam_pal (i : Nat) (d : Byte) : (s.writeRam i d).pal = s.pal := rfl
@[simp] theorem State.writeRam_oam (i : Nat) (d : Byte) : (s.writeRam i d).oam = s.oam := rfl
@[simp] theorem State.writeRam_fb (i : Nat) (d : Byte) : (s.writeRam i d).fb = s.fb := rfl
@[simp] theorem State.writeRam_cart (i : Nat) (d : Byte) : (s.writeRam i d).cart = s.cart := rfl
@[simp] theorem State.writeRam_trace (i : Nat) (d : Byte) : (s.writeRam i d).trace = s.trace := rfl
@[simp] theorem State.writeRam_powerOn (i : Nat) (d : Byte) : (s.writeRam i d).powerOn = s.powerOn := rfl
@[simp] theorem State.writeRam_draws (i : Nat) (d : Byte) : (s.writeRam i d).draws = s.draws := rfl
@[simp] theorem State.writeRam_replies (i : Nat) (d : Byte) : (s.writeRam i d).replies = s.replies := rfl
@[simp] theorem State.writeRam_requests (i : Nat) (d : Byte) : (s.writeRam i d).requests = s.requests := rfl

/-! writeNt -/

@[simp] theorem State.writeNt_ctrl (i : Nat) (d : Byte) : (s.writeNt i d).ctrl = s.ctrl := rfl
@[simp] theorem State.writeNt_mask (i : Nat) (d : Byte) : (s.writeNt i d).mask = s.mask := rfl
@[simp] theorem State.writeNt_vblank (i : Nat) (d : Byte) : (s.writeNt i d).vblank = s.vblank := rfl
@[simp] theorem State.writeNt_oamAddr (i : Nat) (d : Byte) : (s.writeNt i d).oamAddr = s.oamAddr := rfl
@[simp] theorem State.writeNt_scrollX (i : Nat) (d : Byte) : (s.writeNt i d).scrollX = s.scrollX := rfl
@[simp] theorem State.writeNt_scrollY (i : Nat) (d : Byte) : (s.writeNt i d).scrollY = s.scrollY := rfl
@[simp] theorem State.writeNt_v (i : Nat) (d : Byte) : (s.writeNt i d).v = s.v := rfl
@[simp] theorem State.writeNt_t (i : Nat) (d : Byte) : (s.writeNt i d).t = s.t := rfl
@[simp] theorem State.writeNt_w (i : Nat) (d : Byte) : (s.writeNt i d).w = s.w := rfl
@[simp] theorem State.writeNt_ntDirty (i : Nat) (d : Byte) : (s.writeNt i d).ntDirty = s.ntDirty := rfl
@[simp] theorem State.writeNt_ram (i : Nat) (d : Byte) : (s.writeNt i d).ram = s.ram := rfl
@[simp] theorem State.writeNt_nt (i : Nat) (d : Byte) : (s.writeNt i d).nt = s.nt.write i d := rfl
@[simp] theorem State.writeNt_pal (i : Nat) (d : Byte) : (s.writeNt i d).pal = s.pal := rfl
@[simp] theorem State.writeNt_oam (i : Nat) (d : Byte) : (s.writeNt i d).oam = s.oam := rfl
@[simp] theorem State.writeNt_fb (i : Nat) (d : Byte) : (s.writeNt i d).fb = s.fb := rfl
@[simp] theorem State.writeNt_cart (i : Nat) (d : Byte) : (s.writeNt i d).cart = s.cart := rfl
@[simp] theorem State.writeNt_trace (i : Nat) (d : Byte) : (s.writeNt i d).trace = s.trace := rfl
@[simp] theorem State.writeNt_powerOn (i : Nat) (d : Byte) : (s.writeNt i d).powerOn = s.powerOn := rfl
@[simp] theorem State.writeNt_draws (i : Nat) (d : Byte) : (s.writeNt i d).draws = s.draws := rfl
@[simp] theorem State.writeNt_replies (i : Nat) (d : Byte) : (s.writeNt i d).replies = s.replies := rfl
@[simp] theorem State.writeNt_requests (i : Nat) (d : Byte) : (s.writeNt i d).requests = s.requests := rfl

/-! writePal -/

@[simp] theorem State.writePal_ctrl (i : Nat) (d : Byte) : (s.writePal i d).ctrl = s.ctrl := rfl
@[simp] theorem State.writePal_mask (i : Nat) (d : Byte) : (s.writePal i d).mask = s.mask := rfl
@[simp] theorem State.writePal_vblank (i : Nat) (d : Byte) : (s.writePal i d).vblank = s.vblank := rfl
@[simp] theorem State.writePal_oamAddr (i : Nat) (d : Byte) : (s.writePal i d).oamAddr = s.oamAddr := rfl
@[simp] theorem State.writePal_scrollX (i : Nat) (d : Byte) : (s.writePal i d).scrollX = s.scrollX := rfl
@[simp] theorem State.writePal_scrollY (i : Nat) (d : Byte) : (s.writePal i d).scrollY = s.scrollY := rfl
@[simp] theorem State.writePal_v (i : Nat) (d : Byte) : (s.writePal i d).v = s.v := rfl
@[simp] theorem State.writePal_t (i : Nat) (d : Byte) : (s.writePal i d).t = s.t := rfl
@[simp] theorem State.writePal_w (i : Nat) (d : Byte) : (s.writePal i d).w = s.w := rfl
@[simp] theorem State.writePal_ntDirty (i : Nat) (d : Byte) : (s.writePal i d).ntDirty = s.ntDirty := rfl
@[simp] theorem State.writePal_ram (i : Nat) (d : Byte) : (s.writePal i d).ram = s.ram := rfl
@[simp] theorem State.writePal_nt (i : Nat) (d : Byte) : (s.writePal i d).nt = s.nt := rfl
@[simp] theorem State.writePal_pal (i : Nat) (d : Byte) : (s.writePal i d).pal = s.pal.write i d := rfl
@[simp] theorem State.writePal_oam (i : Nat) (d : Byte) : (s.writePal i d).oam = s.oam := rfl
@[simp] theorem State.writePal_fb (i : Nat) (d : Byte) : (s.writePal i d).fb = s.fb := rfl
@[simp] theorem State.writePal_cart (i : Nat) (d : Byte) : (s.writePal i d).cart = s.cart := rfl
@[simp] theorem State.writePal_trace (i : Nat) (d : Byte) : (s.writePal i d).trace = s.trace := rfl
@[simp] theorem State.writePal_powerOn (i : Nat) (d : Byte) : (s.writePal i d).powerOn = s.powerOn := rfl
@[simp] theorem State.writePal_draws (i : Nat) (d : Byte) : (s.writePal i d).draws = s.draws := rfl
@[simp] theorem State.writePal_replies (i : Nat) (d : Byte) : (s.writePal i d).replies = s.replies := rfl
@[simp] theorem State.writePal_requests (i : Nat) (d : Byte) : (s.writePal i d).requests = s.requests := rfl

/-! writeOam -/

@[simp] theorem State.writeOam_ctrl (i : Nat) (d : Byte) : (s.writeOam i d).ctrl = s.ctrl := rfl
@[simp] theorem State.writeOam_mask (i : Nat) (d : Byte) : (s.writeOam i d).mask = s.mask := rfl
@[simp] theorem State.writeOam_vblank (i : Nat) (d : Byte) : (s.writeOam i d).vblank = s.vblank := rfl
@[simp] theorem State.writeOam_oamAddr (i : Nat) (d : Byte) : (s.writeOam i d).oamAddr = s.oamAddr := rfl
@[simp] theorem State.writeOam_scrollX (i : Nat) (d : Byte) : (s.writeOam i d).scrollX = s.scrollX := rfl
@[simp] theorem State.writeOam_scrollY (i : Nat) (d : Byte) : (s.writeOam i d).scrollY = s.scrollY := rfl
@[simp] theorem State.writeOam_v (i : Nat) (d : Byte) : (s.writeOam i d).v = s.v := rfl
@[simp] theorem State.writeOam_t (i : Nat) (d : Byte) : (s.writeOam i d).t = s.t := rfl
@[simp] theorem State.writeOam_w (i : Nat) (d : Byte) : (s.writeOam i d).w = s.w := rfl
@[simp] theorem State.writeOam_ntDirty (i : Nat) (d : Byte) : (s.writeOam i d).ntDirty = s.ntDirty := rfl
@[simp] theorem State.writeOam_ram (i : Nat) (d : Byte) : (s.writeOam i d).ram = s.ram := rfl
@[simp] theorem State.writeOam_nt (i : Nat) (d : Byte) : (s.writeOam i d).nt = s.nt := rfl
@[simp] theorem State.writeOam_pal (i : Nat) (d : Byte) : (s.writeOam i d).pal = s.pal := rfl
@[simp] theorem State.writeOam_oam (i : Nat) (d : Byte) : (s.writeOam i d).oam = s.oam.write i d := rfl
@[simp] theorem State.writeOam_fb (i : Nat) (d : Byte) : (s.writeOam i d).fb = s.fb := rfl
@[simp] theorem State.writeOam_cart (i : Nat) (d : Byte) : (s.writeOam i d).cart = s.cart := rfl
@[simp] theorem State.writeOam_trace (i : Nat) (d : Byte) : (s.writeOam i d).trace = s.trace := rfl
@[simp] theorem State.writeOam_powerOn (i : Nat) (d : Byte) : (s.writeOam i d).powerOn = s.powerOn := rfl
@[simp] theorem State.writeOam_draws (i : Nat) (d : Byte) : (s.writeOam i d).draws = s.draws := rfl
@[simp] theorem State.writeOam_replies (i : Nat) (d : Byte) : (s.writeOam i d).replies = s.replies := rfl
@[simp] theorem State.writeOam_requests (i : Nat) (d : Byte) : (s.writeOam i d).requests = s.requests := rfl

/-- A diagnostic is one event (R320). -/
@[simp] theorem State.raiseDiag_eq (kind : DiagKind) (dir : Dir) (x : Access) (d : Byte) :
    s.raiseDiag kind dir x d = s.emit (.diag kind dir x.origin x.logical x.physical d) := rfl

/-- A format error is one event (R325). -/
@[simp] theorem State.failFormat_eq (kind : FormatErrKind) (info : Option Byte) :
    s.failFormat kind info = s.emit (.formatErr kind info) := rfl

/-! The byte reads depend on one store and the power-on draw. -/

@[simp] theorem State.emit_ramByte (e : Event) (i : Nat) : (s.emit e).ramByte i = s.ramByte i := rfl
@[simp] theorem State.statusRead_ramByte (i : Nat) : (s.statusRead).ramByte i = s.ramByte i := rfl
@[simp] theorem State.markDirty_ramByte (i : Nat) : (s.markDirty).ramByte i = s.ramByte i := rfl
@[simp] theorem State.clearDirty_ramByte (i : Nat) : (s.clearDirty).ramByte i = s.ramByte i := rfl
@[simp] theorem State.drawn_ramByte (i : Nat) : (s.drawn).ramByte i = s.ramByte i := rfl
@[simp] theorem State.advanceV_ramByte (i : Nat) : (s.advanceV).ramByte i = s.ramByte i := rfl
@[simp] theorem State.writeNt_ramByte (j : Nat) (d : Byte) (i : Nat) : (s.writeNt j d).ramByte i = s.ramByte i := rfl
@[simp] theorem State.writePal_ramByte (j : Nat) (d : Byte) (i : Nat) : (s.writePal j d).ramByte i = s.ramByte i := rfl
@[simp] theorem State.writeOam_ramByte (j : Nat) (d : Byte) (i : Nat) : (s.writeOam j d).ramByte i = s.ramByte i := rfl
@[simp] theorem State.emit_ntByte (e : Event) (i : Nat) : (s.emit e).ntByte i = s.ntByte i := rfl
@[simp] theorem State.statusRead_ntByte (i : Nat) : (s.statusRead).ntByte i = s.ntByte i := rfl
@[simp] theorem State.markDirty_ntByte (i : Nat) : (s.markDirty).ntByte i = s.ntByte i := rfl
@[simp] theorem State.clearDirty_ntByte (i : Nat) : (s.clearDirty).ntByte i = s.ntByte i := rfl
@[simp] theorem State.drawn_ntByte (i : Nat) : (s.drawn).ntByte i = s.ntByte i := rfl
@[simp] theorem State.advanceV_ntByte (i : Nat) : (s.advanceV).ntByte i = s.ntByte i := rfl
@[simp] theorem State.writeRam_ntByte (j : Nat) (d : Byte) (i : Nat) : (s.writeRam j d).ntByte i = s.ntByte i := rfl
@[simp] theorem State.writePal_ntByte (j : Nat) (d : Byte) (i : Nat) : (s.writePal j d).ntByte i = s.ntByte i := rfl
@[simp] theorem State.writeOam_ntByte (j : Nat) (d : Byte) (i : Nat) : (s.writeOam j d).ntByte i = s.ntByte i := rfl
@[simp] theorem State.emit_palByte (e : Event) (i : Nat) : (s.emit e).palByte i = s.palByte i := rfl
@[simp] theorem State.statusRead_palByte (i : Nat) : (s.statusRead).palByte i = s.palByte i := rfl
@[simp] theorem State.markDirty_palByte (i : Nat) : (s.markDirty).palByte i = s.palByte i := rfl
@[simp] theorem State.clearDirty_palByte (i : Nat) : (s.clearDirty).palByte i = s.palByte i := rfl
@[simp] theorem State.drawn_palByte (i : Nat) : (s.drawn).palByte i = s.palByte i := rfl
@[simp] theorem State.advanceV_palByte (i : Nat) : (s.advanceV).palByte i = s.palByte i := rfl
@[simp] theorem State.writeRam_palByte (j : Nat) (d : Byte) (i : Nat) : (s.writeRam j d).palByte i = s.palByte i := rfl
@[simp] theorem State.writeNt_palByte (j : Nat) (d : Byte) (i : Nat) : (s.writeNt j d).palByte i = s.palByte i := rfl
@[simp] theorem State.writeOam_palByte (j : Nat) (d : Byte) (i : Nat) : (s.writeOam j d).palByte i = s.palByte i := rfl
@[simp] theorem State.emit_oamByte (e : Event) (i : Nat) : (s.emit e).oamByte i = s.oamByte i := rfl
@[simp] theorem State.statusRead_oamByte (i : Nat) : (s.statusRead).oamByte i = s.oamByte i := rfl
@[simp] theorem State.markDirty_oamByte (i : Nat) : (s.markDirty).oamByte i = s.oamByte i := rfl
@[simp] theorem State.clearDirty_oamByte (i : Nat) : (s.clearDirty).oamByte i = s.oamByte i := rfl
@[simp] theorem State.drawn_oamByte (i : Nat) : (s.drawn).oamByte i = s.oamByte i := rfl
@[simp] theorem State.advanceV_oamByte (i : Nat) : (s.advanceV).oamByte i = s.oamByte i := rfl
@[simp] theorem State.writeRam_oamByte (j : Nat) (d : Byte) (i : Nat) : (s.writeRam j d).oamByte i = s.oamByte i := rfl
@[simp] theorem State.writeNt_oamByte (j : Nat) (d : Byte) (i : Nat) : (s.writeNt j d).oamByte i = s.oamByte i := rfl
@[simp] theorem State.writePal_oamByte (j : Nat) (d : Byte) (i : Nat) : (s.writePal j d).oamByte i = s.oamByte i := rfl

end Sys2Proof.Machine
end

