-- ==== Sys2Proof/Laws/Memory.lean ====
section
/-! SUPPORT. The laws of the byte stores: what a read after a write gives, and that every write keeps the canonical form. -/

namespace Sys2Proof.Machine

namespace Memory

@[simp] theorem read?_nil (i : Nat) : Memory.read? [] i = none := rfl

/-- A read after a write: the byte written at its index, every other index as before. -/
theorem read?_write (m : Memory) (i j : Nat) (b : Byte) :
    (m.write i b).read? j = if j = i then some b else m.read? j := by
  induction m with
  | nil => simp [write, read?]
  | cons c m ih =>
    obtain ⟨k, v⟩ := c
    simp only [write]
    split
    · simp [read?]
    · split
      · subst_vars
        simp only [read?]
        split <;> rfl
      · simp only [read?, ih]
        by_cases hk : j = k <;> by_cases hi : j = i <;> simp_all

@[simp] theorem read?_write_same (m : Memory) (i : Nat) (b : Byte) : (m.write i b).read? i = some b := by
  simp [read?_write]

theorem read?_write_other (m : Memory) {i j : Nat} (b : Byte) (h : j ≠ i) : (m.write i b).read? j = m.read? j := by
  simp [read?_write, h]

/-- A read after a block write: the block's byte inside it, as before outside. -/
theorem read?_writeAll (m : Memory) (i j : Nat) (bs : List Byte) :
    (m.writeAll i bs).read? j = if i ≤ j ∧ j < i + bs.length then bs[j - i]? else m.read? j := by
  induction bs generalizing m i with
  | nil => simp [writeAll]
  | cons b bs ih =>
    simp only [writeAll, ih, read?_write, List.length_cons]
    by_cases hji : j = i
    · subst hji
      simp
    · by_cases hin : i ≤ j ∧ j < i + (bs.length + 1)
      · have h1 : i + 1 ≤ j ∧ j < i + 1 + bs.length := by omega
        have h2 : j - i = (j - (i + 1)) + 1 := by omega
        simp [hin, h1, h2]
      · have h1 : ¬(i + 1 ≤ j ∧ j < i + 1 + bs.length) := by omega
        simp only [if_neg h1, if_neg hin, if_neg hji]

/-- An unlisted index of a canonical store below its first entry. -/
theorem all_lt_write {m : Memory} {k i : Nat} {b : Byte} (h : m.all (fun c => decide (k < c.1)) = true) (hi : k < i) :
    (m.write i b).all (fun c => decide (k < c.1)) = true := by
  induction m with
  | nil => simpa [write] using hi
  | cons c m ih =>
    obtain ⟨k', v⟩ := c
    simp only [List.all_cons, Bool.and_eq_true, decide_eq_true_eq] at h
    simp only [write]
    split
    · simp [hi, h.1, h.2]
    · split
      · simp [hi, h.2]
      · simp [h.1, ih h.2]

/-- A write inside the store keeps the canonical form. -/
theorem wf_write {size : Nat} {m : Memory} {i : Nat} {b : Byte} (h : m.wf size = true) (hi : i < size) :
    (m.write i b).wf size = true := by
  induction m with
  | nil => simpa [write, wf] using hi
  | cons c m ih =>
    obtain ⟨k, v⟩ := c
    simp only [wf, Bool.and_eq_true, decide_eq_true_eq] at h
    obtain ⟨⟨hk, hall⟩, hm⟩ := h
    simp only [write]
    split
    · rename_i hlt
      have hall' : m.all (fun c => decide (i < c.1)) = true := by
        simp only [List.all_eq_true, decide_eq_true_eq] at hall ⊢
        intro c hc
        exact Nat.lt_trans hlt (hall c hc)
      simp [wf, hi, hk, hlt, hall, hall', hm]
    · split
      · subst_vars
        simp [wf, hi, hall, hm]
      · have hki : k < i := by omega
        simp [wf, hk, ih hm, all_lt_write hall hki]

/-- A block write inside the store keeps the canonical form. -/
theorem wf_writeAll {size : Nat} {m : Memory} {i : Nat} {bs : List Byte} (h : m.wf size = true)
    (hi : i + bs.length ≤ size) : (m.writeAll i bs).wf size = true := by
  induction bs generalizing m i with
  | nil => simpa [writeAll] using h
  | cons b bs ih =>
    simp only [List.length_cons] at hi
    exact ih (wf_write h (by omega)) (by omega)

end Memory

variable (s : State)

@[simp] theorem State.writeRam_ramByte (i j : Nat) (d : Byte) :
    (s.writeRam i d).ramByte j = if j = i then d else s.ramByte j := by
  simp only [State.ramByte, State.writeRam, Memory.read?_write]; split <;> rfl

@[simp] theorem State.writeNt_ntByte (i j : Nat) (d : Byte) :
    (s.writeNt i d).ntByte j = if j = i then d else s.ntByte j := by
  simp only [State.ntByte, State.writeNt, Memory.read?_write]; split <;> rfl

@[simp] theorem State.writePal_palByte (i j : Nat) (d : Byte) :
    (s.writePal i d).palByte j = if j = i then d else s.palByte j := by
  simp only [State.palByte, State.writePal, Memory.read?_write]; split <;> rfl

@[simp] theorem State.writeOam_oamByte (i j : Nat) (d : Byte) :
    (s.writeOam i d).oamByte j = if j = i then d else s.oamByte j := by
  simp only [State.oamByte, State.writeOam, Memory.read?_write]; split <;> rfl

end Sys2Proof.Machine
end

