-- ==== Sys2Proof/Laws/Ops.lean ====
section
/-! SUPPORT. What the shared operations can do: the cartridge guard, the answer of a read, the mapper's translation, the ROM reads,
and the data-port accesses by region. -/

namespace Sys2Proof.Machine

variable {s : State} {c : NesRom}

/-! The cartridge guard. -/

theorem withCart_some (h : s.cart = some c) (f : NesRom → Result) : withCart s f = f c := by simp [withCart, h]

theorem withCart_none (h : s.cart = none) (f : NesRom → Result) : withCart s f = .refused .noCartridge := by
  simp [withCart, h]

/-- A guarded meaning answers a next state only with a cartridge. -/
theorem withCart_next {f : NesRom → Result} {s' : State} (h : withCart s f = .next s') :
    ∃ c, s.cart = some c ∧ f c = .next s' := by
  unfold withCart at h
  split at h
  · cases h
  · exact ⟨_, ‹_›, h⟩

/-- The state after an answer: the byte at the end of the replies. -/
theorem answer_next {r : Byte × State} {s' : State} :
    answer r = .next s' ↔ s' = { r.2 with replies := r.2.replies ++ [r.1] } := by
  simp [answer, eq_comm]

/-! Translation. -/

@[simp] theorem translate_ppu (c : NesRom) (a : Addr) : translate c a .ppu = a := by simp [translate]

/-- Below the upper PRG window the translation changes nothing. -/
theorem translate_below (c : NesRom) {a : Addr} (o : Origin) (h : a.toNat < 0xC000) : translate c a o = a := by
  simp only [translate, ite_eq_right_iff]; omega

/-- With any number of banks but one the translation changes nothing. -/
theorem translate_banks {c : NesRom} (a : Addr) (o : Origin) (h : c.prgBankCount16K ≠ 1) : translate c a o = a := by
  unfold translate
  exact if_neg fun hc => h hc.2.2

/-- One bank: the upper window falls onto the lower one. -/
theorem translate_mirror {c : NesRom} {a : Addr} (h : c.prgBankCount16K = 1) (ha : 0xC000 ≤ a.toNat) :
    translate c a .cpu = a - 0x4000 := by
  simp [translate, h, ha]

/-- The two results a translation can have. -/
theorem translate_cases (c : NesRom) (a : Addr) (o : Origin) :
    translate c a o = a ∨
      (o = .cpu ∧ 0xC000 ≤ a.toNat ∧ translate c a o = a - 0x4000 ∧ (translate c a o).toNat = a.toNat - 0x4000) := by
  unfold translate
  split
  · rename_i h
    refine .inr ⟨h.1, h.2.1, rfl, ?_⟩
    have := a.isLt
    rw [BitVec.toNat_sub_of_le (by rw [BitVec.le_def]; simp; omega)]
    rfl
  · exact .inl rfl

/-- The translation never leaves or enters the space below `0x8000`. -/
theorem translate_low_iff (c : NesRom) (a : Addr) (o : Origin) :
    (translate c a o).toNat < 0x8000 ↔ a.toNat < 0x8000 := by
  rcases translate_cases c a o with h | ⟨-, ha, -, h⟩ <;> rw [h]
  have := a.isLt
  omega

/-- The access of a translated address is one WellFormed allows. -/
theorem translate_consistent (c : NesRom) (a : Addr) (o : Origin) :
    Access.consistent { origin := o, logical := a, physical := translate c a o } = true := by
  rcases translate_cases c a o with h | ⟨ho, ha, h, hn⟩
  · simp [Access.consistent, h]
  · have hlt := a.isLt
    simp only [Access.consistent, Bool.or_eq_true, Bool.and_eq_true, decide_eq_true_eq]
    refine .inr ⟨⟨⟨ho, by omega⟩, by omega⟩, ?_⟩
    rw [h]
    exact (BitVec.sub_add_cancel a _).symm

/-! ROM reads. -/

@[simp] theorem missedRead_byte (x : Access) (s : State) : (missedRead x s).1 = 0x00 := rfl
@[simp] theorem missedRead_state (x : Access) (s : State) :
    (missedRead x s).2 = s.raiseDiag .unmappedAccess .r x 0x00 := rfl

/-- A ROM read is the byte at its offset and no change, or a miss. -/
theorem romRead_hit {region : List Byte} {k : Nat} {b : Byte} (h : region[k]? = some b) (x : Access) (s : State) :
    romRead region k x s = (b, s) := by simp [romRead, h]

theorem romRead_miss {region : List Byte} {k : Nat} (h : region.length ≤ k) (x : Access) (s : State) :
    romRead region k x s = missedRead x s := by simp [romRead, List.getElem?_eq_none h]

/-- The byte of a ROM read does not depend on the state. -/
theorem romRead_byte (region : List Byte) (k : Nat) (x : Access) (s : State) : (romRead region k x s).1 = region.getD k 0 := by
  unfold romRead
  split <;> rename_i h <;> simp [h]

/-- A ROM read changes at most the trace, by at most one event. -/
theorem romRead_state (region : List Byte) (k : Nat) (x : Access) (s : State) :
    (romRead region k x s).2 =
      { s with trace := s.trace ++
          (if k < region.length then [] else [.diag .unmappedAccess .r x.origin x.logical x.physical 0x00]) } := by
  by_cases h : k < region.length
  · rw [romRead_hit (List.getElem?_eq_getElem h)]
    simp [h]
  · rw [romRead_miss (by omega)]
    simp [h, State.raiseDiag, State.emit]

/-! Data-port accesses by region (R68, R240, R241). -/

theorem vramRead_eq (c : NesRom) (p : PAddr) (s : State) :
    vramRead c p s = vramReadRow c (vramInstr false p 0x00) s := by
  simp [vramRead, decodeVramKey_vramKey]

theorem vramWrite_eq (c : NesRom) (p : PAddr) (d : Byte) (s : State) :
    vramWrite c p d s = vramWriteRow c (vramInstr true p d) s := by
  simp [vramWrite, decodeVramKey_vramKey]

theorem vramRead_pat (c : NesRom) {p : PAddr} (s : State) (h : p.toNat < 0x2000) : vramRead c p s = ruleVrdPat c p s := by
  simp [vramRead_eq, vramInstr, vramReadRow, h]

theorem vramRead_nt (c : NesRom) {p : PAddr} (s : State) (h : 0x2000 ≤ p.toNat) (h' : p.toNat < 0x3000) :
    vramRead c p s = ruleVrdNt c p s := by
  simp [vramRead_eq, vramInstr, vramReadRow, h', Nat.not_lt.mpr h]

theorem vramRead_ntm (c : NesRom) {p : PAddr} (s : State) (h : 0x3000 ≤ p.toNat) (h' : p.toNat < 0x3F00) :
    vramRead c p s = ruleVrdNtm c p s := by
  have h0 : ¬p.toNat < 0x2000 := by omega
  simp [vramRead_eq, vramInstr, vramReadRow, h', Nat.not_lt.mpr h, h0]

theorem vramRead_pal (c : NesRom) {p : PAddr} (s : State) (h : 0x3F00 ≤ p.toNat) : vramRead c p s = ruleVrdPal p s := by
  have h0 : ¬p.toNat < 0x2000 := by omega
  have h1 : ¬p.toNat < 0x3000 := by omega
  simp [vramRead_eq, vramInstr, vramReadRow, Nat.not_lt.mpr h, h0, h1]

theorem vramWrite_pat (c : NesRom) {p : PAddr} (d : Byte) (s : State) (h : p.toNat < 0x2000) :
    vramWrite c p d s = ruleVwrPat p d s := by
  simp [vramWrite_eq, vramInstr, vramWriteRow, h]

theorem vramWrite_nt (c : NesRom) {p : PAddr} (d : Byte) (s : State) (h : 0x2000 ≤ p.toNat) (h' : p.toNat < 0x3000) :
    vramWrite c p d s = ruleVwrNt c p d s := by
  simp [vramWrite_eq, vramInstr, vramWriteRow, h', Nat.not_lt.mpr h]

theorem vramWrite_ntm (c : NesRom) {p : PAddr} (d : Byte) (s : State) (h : 0x3000 ≤ p.toNat) (h' : p.toNat < 0x3F00) :
    vramWrite c p d s = ruleVwrNtm c p d s := by
  have h0 : ¬p.toNat < 0x2000 := by omega
  simp [vramWrite_eq, vramInstr, vramWriteRow, h', Nat.not_lt.mpr h, h0]

theorem vramWrite_pal (c : NesRom) {p : PAddr} (d : Byte) (s : State) (h : 0x3F00 ≤ p.toNat) :
    vramWrite c p d s = ruleVwrPal p d s := by
  have h0 : ¬p.toNat < 0x2000 := by omega
  have h1 : ¬p.toNat < 0x3000 := by omega
  simp [vramWrite_eq, vramInstr, vramWriteRow, Nat.not_lt.mpr h, h0, h1]

/-- The regions of the PPU address space. -/
theorem vram_regions (p : PAddr) :
    p.toNat < 0x2000 ∨ (0x2000 ≤ p.toNat ∧ p.toNat < 0x3000) ∨ (0x3000 ≤ p.toNat ∧ p.toNat < 0x3F00) ∨ 0x3F00 ≤ p.toNat := by
  omega

/-- A data-port read changes nothing but the trace, which it extends. -/
theorem vramRead_state (c : NesRom) (p : PAddr) (s : State) :
    ∃ es : List Event, es.length ≤ 1 ∧ (vramRead c p s).2 = { s with trace := s.trace ++ es } := by
  rcases vram_regions p with h | ⟨h, h'⟩ | ⟨h, h'⟩ | h
  · rw [vramRead_pat c s h, ruleVrdPat, chrRead, romRead_state]
    refine ⟨_, ?_, rfl⟩
    split <;> simp
  · rw [vramRead_nt c s h h']; exact ⟨[], by simp, by simp [ruleVrdNt]⟩
  · rw [vramRead_ntm c s h h']; exact ⟨[], by simp, by simp [ruleVrdNtm]⟩
  · rw [vramRead_pal c s h]; exact ⟨[], by simp, by simp [ruleVrdPal]⟩

/-- What a data-port write can do: one nametable byte, one palette byte, or one event. -/
theorem vramWrite_cases (c : NesRom) (p : PAddr) (d : Byte) (s : State) :
    (∃ i, vramWrite c p d s = s.writeNt i d) ∨ vramWrite c p d s = s.writePal (palIndex p) d ∨
      ∃ e, vramWrite c p d s = s.emit e := by
  rcases vram_regions p with h | ⟨h, h'⟩ | ⟨h, h'⟩ | h
  · rw [vramWrite_pat c d s h]; exact .inr (.inr ⟨_, rfl⟩)
  · rw [vramWrite_nt c d s h h']; exact .inl ⟨_, rfl⟩
  · rw [vramWrite_ntm c d s h h']; exact .inl ⟨_, rfl⟩
  · rw [vramWrite_pal c d s h]; exact .inr (.inl rfl)

/-! Store indices. -/

/-- `NtIndex` stays inside the nametable store. -/
theorem ntIndex_lt (arr : Arrangement) (p : PAddr) (h : p.toNat < 0x3000) : ntIndex arr p < 2048 := by
  cases arr <;> simp only [ntIndex] <;> omega

/-- The offset in the table survives the mirroring (R259). -/
theorem ntIndex_mod (arr : Arrangement) (p : PAddr) : ntIndex arr p % 0x400 = p.toNat % 0x400 := by
  cases arr <;> simp only [ntIndex] <;> omega

/-- `PalIndex` stays inside the palette store. -/
theorem palIndex_lt (p : PAddr) : palIndex p < 32 := by
  simp only [palIndex]; split <;> omega

/-- `PalIndex` never selects a folded cell (R255). -/
theorem palIndex_folds (p : PAddr) : palIndex p ≠ 0x10 ∧ palIndex p ≠ 0x14 ∧ palIndex p ≠ 0x18 ∧ palIndex p ≠ 0x1C := by
  simp only [palIndex]; split <;> omega

end Sys2Proof.Machine
end

