-- ==== Sys2Proof/Laws/Bus.lean ====
section
/-! SUPPORT. What a bus read can do, by range and as a frame, and what the pattern fetch returns and emits. -/

namespace Sys2Proof.Machine

variable (c : NesRom) (s : State)

/-- A bus read is the rule of the row its translated address selects (R170). -/
theorem busRead_eq (a : Addr) (o : Origin) :
    busRead c a o s = busReadRow c (busInstr s.w false { origin := o, logical := a, physical := translate c a o } 0x00) s := by
  simp [busRead, decodeBusKey_busKey]

/-- A CPU-origin read of internal RAM (R172). -/
theorem busRead_ram {a : Addr} (h : a.toNat < 0x2000) :
    busRead c a .cpu s = (s.ramByte (a.toNat % 0x0800), s) := by
  rw [busRead_eq, translate_below c .cpu (by omega)]
  simp [busInstr, h, busReadRow, ruleRdRam]

/-- A PPU-origin read below `0x2000` is a CHR read (R174, R189). -/
theorem busRead_chr {a : Addr} (h : a.toNat < 0x2000) :
    busRead c a .ppu s = chrRead c { origin := .ppu, logical := a, physical := a } s := by
  rw [busRead_eq, translate_ppu]
  simp [busInstr, h, busReadRow, rulePrdChr]

/-- A read of the upper half of the address space is a PRG read (R177). -/
theorem busRead_prg {a : Addr} (o : Origin) (h : 0x8000 ≤ a.toNat) :
    busRead c a o s = prgRead c { origin := o, logical := a, physical := translate c a o } s := by
  have ht := translate_low_iff c a o
  have h0 : ¬(translate c a o).toNat < 0x8000 := by omega
  have h1 : ¬(translate c a o).toNat < 0x2000 := by omega
  have h2 : ¬(translate c a o).toNat < 0x4000 := by omega
  have h3 : ¬(translate c a o).toNat < 0x4020 := by omega
  have h4 : (translate c a o).toNat ≠ 0x4014 ∧ (translate c a o).toNat ≠ 0x4015 ∧ (translate c a o).toNat ≠ 0x4016 ∧
      (translate c a o).toNat ≠ 0x4017 := by omega
  rw [busRead_eq]
  simp [busInstr, h0, h1, h2, h3, h4, busReadRow, ruleRdPrg]

/-- Everything a bus read can change: the two flags a status read clears, the data port's address, the draw index, and one more
event at most (R73). -/
theorem busReadRow_state (i : Instr) :
    ∃ (w vb : Bool) (v : VAddr) (n : Nat) (es : List Event), es.length ≤ 1 ∧
      (busReadRow c i s).2 = { s with w := w, vblank := vb, v := v, draws := n, trace := s.trace ++ es } := by
  have same : ∃ (w vb : Bool) (v : VAddr) (n : Nat) (es : List Event), es.length ≤ 1 ∧
      s = { s with w := w, vblank := vb, v := v, draws := n, trace := s.trace ++ es } :=
    ⟨s.w, s.vblank, s.v, s.draws, [], by simp, by simp⟩
  have missed : ∀ x, ∃ (w vb : Bool) (v : VAddr) (n : Nat) (es : List Event), es.length ≤ 1 ∧
      (missedRead x s).2 = { s with w := w, vblank := vb, v := v, draws := n, trace := s.trace ++ es } :=
    fun x => ⟨s.w, s.vblank, s.v, s.draws, [_], by simp, rfl⟩
  have rom : ∀ (region : List Byte) (k : Nat) (x : Access),
      ∃ (w vb : Bool) (v : VAddr) (n : Nat) (es : List Event), es.length ≤ 1 ∧
      (romRead region k x s).2 = { s with w := w, vblank := vb, v := v, draws := n, trace := s.trace ++ es } := by
    intro region k x
    rw [romRead_state]
    refine ⟨s.w, s.vblank, s.v, s.draws, _, ?_, rfl⟩
    split <;> simp
  have draw : ∃ (w vb : Bool) (v : VAddr) (n : Nat) (es : List Event), es.length ≤ 1 ∧
      s.drawn = { s with w := w, vblank := vb, v := v, draws := n, trace := s.trace ++ es } :=
    ⟨s.w, s.vblank, s.v, s.draws + 1, [], by simp, by simp [State.drawn]⟩
  cases i <;> simp only [busReadRow]
  case rdStatus => exact ⟨false, false, s.v, s.draws, [], by simp, by simp [ruleRdStatus, State.statusRead]⟩
  case rdData =>
    obtain ⟨es, hl, he⟩ := vramRead_state c s.dataAddr s
    exact ⟨s.w, s.vblank, s.v + ctrlIncrement s.ctrl, s.draws, es, hl, by
      simp only [ruleRdData, State.advanceV]; rw [he]⟩
  case rdApustat | rdJoy1 | rdJoy2 => exact draw
  case rdOpen | rdCartlo => exact missed _
  case prdChr | rdPrg => exact rom _ _ _
  all_goals exact same

theorem busRead_state (a : Addr) (o : Origin) :
    ∃ (w vb : Bool) (v : VAddr) (n : Nat) (es : List Event), es.length ≤ 1 ∧
      (busRead c a o s).2 = { s with w := w, vblank := vb, v := v, draws := n, trace := s.trace ++ es } := by
  rw [busRead_eq]
  exact busReadRow_state c s _

@[simp] theorem busReads_length (o : Origin) (as : List Addr) : (busReads c o as s).1.length = as.length := by
  induction as generalizing s with
  | nil => rfl
  | cons a as ih => simp [busReads, ih]

/-- Everything a sequence of bus reads can change. -/
theorem busReads_state (o : Origin) (as : List Addr) :
    ∃ (w vb : Bool) (v : VAddr) (n : Nat) (es : List Event), es.length ≤ as.length ∧
      (busReads c o as s).2 = { s with w := w, vblank := vb, v := v, draws := n, trace := s.trace ++ es } := by
  induction as generalizing s with
  | nil => exact ⟨s.w, s.vblank, s.v, s.draws, [], by simp, by simp [busReads]⟩
  | cons a as ih =>
    obtain ⟨w1, b1, v1, n1, e1, l1, h1⟩ := busRead_state c s a o
    obtain ⟨w2, b2, v2, n2, e2, l2, h2⟩ := ih (busRead c a o s).2
    refine ⟨w2, b2, v2, n2, e1 ++ e2, by simp only [List.length_append, List.length_cons]; omega, ?_⟩
    simp only [busReads]
    rw [h2, h1]
    simp

/-- The diagnostic of a CHR read past the end of CHR. -/
def chrMiss (a : Addr) : Event := .diag .unmappedAccess .r .ppu a a 0x00

/-- PPU-origin reads below `0x2000`: the CHR bytes, and one diagnostic for each byte CHR does not have, in order (R272). -/
theorem busReads_chr (as : List Addr) (h : ∀ a ∈ as, a.toNat < 0x2000) :
    busReads c .ppu as s =
      (as.map (fun a => c.chr.getD a.toNat 0),
        { s with trace := s.trace ++ (as.filter (fun a => decide (c.chr.length ≤ a.toNat))).map chrMiss }) := by
  induction as generalizing s with
  | nil => simp [busReads]
  | cons a as ih =>
    have h0 := h a (by simp)
    have hr : busRead c a .ppu s = (c.chr.getD a.toNat 0,
        { s with trace := s.trace ++ (if c.chr.length ≤ a.toNat then [chrMiss a] else []) }) := by
      rw [busRead_chr c s h0, chrRead]
      refine Prod.ext (romRead_byte _ _ _ _) ?_
      rw [romRead_state]
      by_cases hl : a.toNat < c.chr.length
      · simp [hl, Nat.not_le.mpr hl]
      · simp [hl, Nat.not_lt.mp hl, chrMiss]
    simp only [busReads, hr, ih _ (fun b hb => h b (by simp [hb]))]
    by_cases hl : c.chr.length ≤ a.toNat
    · simp [hl]
    · simp [hl]

theorem patAddrs_lt : ∀ a ∈ patAddrs, a.toNat < 0x2000 := by
  intro a ha
  simp only [patAddrs, List.mem_map, List.mem_range] at ha
  obtain ⟨n, hn, rfl⟩ := ha
  rw [BitVec.toNat_ofNat, Nat.mod_eq_of_lt (by omega)]
  exact hn

/-- The pattern fetch: the CHR bytes with 0 past the end, and the diagnostics in ascending address order (R272). -/
theorem patFetch_eq :
    patFetch c s =
      (patAddrs.map (fun a => c.chr.getD a.toNat 0),
        { s with trace := s.trace ++ (patAddrs.filter (fun a => decide (c.chr.length ≤ a.toNat))).map chrMiss }) :=
  busReads_chr c s patAddrs patAddrs_lt

/-- A byte of the fetched patterns. -/
theorem patFetch_byte {k : Nat} (h : k < 0x2000) : (patFetch c s).1.getD k 0 = c.chr.getD k 0 := by
  have hk : k % 65536 = k := by omega
  rw [patFetch_eq]
  simp [patAddrs, List.getD_eq_getElem?_getD, List.getElem?_range h, hk]

/-- The pattern fetch writes no field but the trace, so RENDER writes only `S.vblank`, `S.fb` and the trace (R270). -/
theorem renderFrame_eq :
    renderFrame c s =
      { s with
        vblank := true
        fb := renderFb c s (patAddrs.map (fun a => c.chr.getD a.toNat 0))
        trace := s.trace ++ (patAddrs.filter (fun a => decide (c.chr.length ≤ a.toNat))).map chrMiss ++ frameEvents s } := by
  simp [renderFrame, patFetch_eq]

end Sys2Proof.Machine
end

