-- ==== Sys2Proof/Laws/PerInstr.lean ====
section
/-! SUPPORT. Lemmas made once per constructor of Instr. Family KeyInBytes: the bytes an operation is encoded to carry its whole key, so
decoding them is decoding the key. -/

namespace Sys2Proof.Laws.KeyInBytes

/-- Decoding the bytes of the operation decodes its key. -/
def Statement (i : Instr) : Prop := decode (encode i).1 (encode i).2 = decodeKey (encodeKey i)

theorem rdRam (x : Access) : Statement (.rdRam x) := decode_encode_key _
theorem wrRam (x : Access) (d : Byte) : Statement (.wrRam x d) := decode_encode_key _
theorem prdChr (x : Access) : Statement (.prdChr x) := decode_encode_key _
theorem pwrChr (x : Access) (d : Byte) : Statement (.pwrChr x d) := decode_encode_key _
theorem rdCtrl (x : Access) : Statement (.rdCtrl x) := decode_encode_key _
theorem rdMask (x : Access) : Statement (.rdMask x) := decode_encode_key _
theorem rdStatus (x : Access) : Statement (.rdStatus x) := decode_encode_key _
theorem rdOamaddr (x : Access) : Statement (.rdOamaddr x) := decode_encode_key _
theorem rdOamdata (x : Access) : Statement (.rdOamdata x) := decode_encode_key _
theorem rdScroll (x : Access) : Statement (.rdScroll x) := decode_encode_key _
theorem rdAddr (x : Access) : Statement (.rdAddr x) := decode_encode_key _
theorem rdData (x : Access) : Statement (.rdData x) := decode_encode_key _
theorem wrCtrl (x : Access) (d : Byte) : Statement (.wrCtrl x d) := decode_encode_key _
theorem wrMask (x : Access) (d : Byte) : Statement (.wrMask x d) := decode_encode_key _
theorem wrStatus (x : Access) (d : Byte) : Statement (.wrStatus x d) := decode_encode_key _
theorem wrOamaddr (x : Access) (d : Byte) : Statement (.wrOamaddr x d) := decode_encode_key _
theorem wrOamdata (x : Access) (d : Byte) : Statement (.wrOamdata x d) := decode_encode_key _
theorem wrScrollX (x : Access) (d : Byte) : Statement (.wrScrollX x d) := decode_encode_key _
theorem wrScrollY (x : Access) (d : Byte) : Statement (.wrScrollY x d) := decode_encode_key _
theorem wrAddrHi (x : Access) (d : Byte) : Statement (.wrAddrHi x d) := decode_encode_key _
theorem wrAddrLo (x : Access) (d : Byte) : Statement (.wrAddrLo x d) := decode_encode_key _
theorem wrData (x : Access) (d : Byte) : Statement (.wrData x d) := decode_encode_key _
theorem wrOamdma (x : Access) (d : Byte) : Statement (.wrOamdma x d) := decode_encode_key _
theorem rdApustat (x : Access) : Statement (.rdApustat x) := decode_encode_key _
theorem wrApu (x : Access) (d : Byte) : Statement (.wrApu x d) := decode_encode_key _
theorem rdJoy1 (x : Access) : Statement (.rdJoy1 x) := decode_encode_key _
theorem wrJoy1 (x : Access) (d : Byte) : Statement (.wrJoy1 x d) := decode_encode_key _
theorem rdJoy2 (x : Access) : Statement (.rdJoy2 x) := decode_encode_key _
theorem wrJoy2 (x : Access) (d : Byte) : Statement (.wrJoy2 x d) := decode_encode_key _
theorem rdOpen (x : Access) : Statement (.rdOpen x) := decode_encode_key _
theorem wrOpen (x : Access) (d : Byte) : Statement (.wrOpen x d) := decode_encode_key _
theorem rdCartlo (x : Access) : Statement (.rdCartlo x) := decode_encode_key _
theorem wrCartlo (x : Access) (d : Byte) : Statement (.wrCartlo x d) := decode_encode_key _
theorem rdPrg (x : Access) : Statement (.rdPrg x) := decode_encode_key _
theorem wrPrg (x : Access) (d : Byte) : Statement (.wrPrg x d) := decode_encode_key _
theorem vrdPal (p : PAddr) : Statement (.vrdPal p) := decode_encode_key _
theorem vwrPal (p : PAddr) (d : Byte) : Statement (.vwrPal p d) := decode_encode_key _
theorem vrdNtm (p : PAddr) : Statement (.vrdNtm p) := decode_encode_key _
theorem vwrNtm (p : PAddr) (d : Byte) : Statement (.vwrNtm p d) := decode_encode_key _
theorem vrdNt (p : PAddr) : Statement (.vrdNt p) := decode_encode_key _
theorem vwrNt (p : PAddr) (d : Byte) : Statement (.vwrNt p d) := decode_encode_key _
theorem vrdPat (p : PAddr) : Statement (.vrdPat p) := decode_encode_key _
theorem vwrPat (p : PAddr) (d : Byte) : Statement (.vwrPat p d) := decode_encode_key _
theorem reset : Statement .reset := decode_encode_key _
theorem insert (image : List Byte) : Statement (.insert image) := decode_encode_key _
theorem render : Statement .render := decode_encode_key _
theorem ackview : Statement .ackview := decode_encode_key _

end Sys2Proof.Laws.KeyInBytes
end

