-- ==== Sys2Proof/Laws/Render.lean ====
section
/-! SUPPORT. Pixels: what PutPixel changes, and what a pixel holds after a pass that puts pixels in some order. -/

namespace Sys2Proof.Machine

/-- Pixel (x, y) of a framebuffer (R42). -/
def fbPixel (fb : Framebuffer) (x y : Nat) : Rgb :=
  { red := fb[3 * (256 * y + x)]?.getD 0, green := fb[3 * (256 * y + x) + 1]?.getD 0, blue := fb[3 * (256 * y + x) + 2]?.getD 0 }

theorem setIfInBounds_getD (fb : Framebuffer) (i j : Nat) (b : Byte) (h : i < fbSize) :
    (fb.setIfInBounds i b)[j]?.getD 0 = if j = i then b else fb[j]?.getD 0 := by
  rw [Vector.getElem?_setIfInBounds]
  by_cases hj : i = j
  · subst hj; simp [h]
  · simp [hj, Ne.symm hj]

/-- PutPixel writes its pixel and no other. -/
theorem fbPixel_putPixel (fb : Framebuffer) {x y x' y' : Nat} (rgb : Rgb) (hx : x < 256) (hy : y < 240) (hx' : x' < 256) :
    fbPixel (putPixel fb x y rgb) x' y' = if x' = x ∧ y' = y then rgb else fbPixel fb x' y' := by
  have hi : 3 * (256 * y + x) + 2 < fbSize := by simp only [fbSize]; omega
  have h0 : 3 * (256 * y + x) < fbSize := by omega
  have h1 : 3 * (256 * y + x) + 1 < fbSize := by omega
  simp only [fbPixel, putPixel, setIfInBounds_getD _ _ _ _ hi, setIfInBounds_getD _ _ _ _ h0, setIfInBounds_getD _ _ _ _ h1]
  by_cases he : x' = x ∧ y' = y
  · obtain ⟨rfl, rfl⟩ := he
    simp
  · have hne : 256 * y' + x' ≠ 256 * y + x := by omega
    have n1 : 3 * (256 * y' + x') ≠ 3 * (256 * y + x) := by omega
    have n2 : 3 * (256 * y' + x') ≠ 3 * (256 * y + x) + 1 := by omega
    have n3 : 3 * (256 * y' + x') ≠ 3 * (256 * y + x) + 2 := by omega
    have n4 : 3 * (256 * y' + x') + 1 ≠ 3 * (256 * y + x) := by omega
    have n5 : 3 * (256 * y' + x') + 1 ≠ 3 * (256 * y + x) + 2 := by omega
    have n6 : 3 * (256 * y' + x') + 2 ≠ 3 * (256 * y + x) := by omega
    have n7 : 3 * (256 * y' + x') + 2 ≠ 3 * (256 * y + x) + 1 := by omega
    have n8 : 3 * (256 * y' + x') + 1 ≠ 3 * (256 * y + x) + 1 := by omega
    have n9 : 3 * (256 * y' + x') + 2 ≠ 3 * (256 * y + x) + 2 := by omega
    simp only [if_neg he, if_neg n1, if_neg n2, if_neg n3, if_neg n4, if_neg n5, if_neg n6, if_neg n7, if_neg n8, if_neg n9]

/-- A pass over a list of steps, each of which either puts a colour on the pixel or leaves it: the last colour put stays. -/
theorem fbPixel_foldl {α : Type} (l : List α) (f : α → Framebuffer → Framebuffer) (hit : α → Option Rgb) (x y : Nat)
    (h : ∀ a ∈ l, ∀ fb, fbPixel (f a fb) x y = (hit a).getD (fbPixel fb x y)) (fb : Framebuffer) :
    fbPixel (l.foldl (fun fb a => f a fb) fb) x y = (l.reverse.findSome? hit).getD (fbPixel fb x y) := by
  induction l generalizing fb with
  | nil => rfl
  | cons a l ih =>
    rw [List.foldl_cons, ih (fun b hb => h b (by simp [hb])), h a (by simp)]
    simp only [List.reverse_cons, List.findSome?_append, List.findSome?_cons, List.findSome?_nil]
    cases l.reverse.findSome? hit <;> cases hit a <;> rfl

/-- A search in which one element alone succeeds finds it. -/
theorem findSome?_unique {α β : Type} {l : List α} {f : α → Option β} {a : α} (ha : a ∈ l)
    (h : ∀ b ∈ l, b ≠ a → f b = none) : l.findSome? f = f a := by
  induction l with
  | nil => cases ha
  | cons b l ih =>
    rw [List.findSome?_cons]
    by_cases hb : b = a
    · subst hb
      cases hf : f b with
      | some v => rfl
      | none =>
        rw [List.findSome?_eq_none_iff]
        intro c hc
        by_cases hcb : c = b
        · rw [hcb, hf]
        · exact h c (by simp [hc]) hcb
    · rw [h b (by simp) hb]
      exact ih (by simpa [Ne.symm hb] using ha) (fun c hc => h c (by simp [hc]))

/-- A background pixel lands on framebuffer pixel (x, y) exactly when its place in the cell grid is (x, y) plus the fine scroll
(R275, R282). -/
theorem fbPixel_bgPixel (s : State) {cx cy r col x y : Nat} (rgb : Rgb) (hx : x < 256) (hy : y < 240) (fb : Framebuffer) :
    fbPixel (bgPixel s cx cy rgb r col fb) x y =
      (if 8 * cx + col = x + s.scrollX.toNat % 8 ∧ 8 * cy + r = y + s.scrollY.toNat % 8 then some rgb else none).getD
        (fbPixel fb x y) := by
  simp only [bgPixel]
  split
  · rename_i hv
    rw [fbPixel_putPixel fb rgb (by omega) (by omega) hx]
    by_cases he : 8 * cx + col = x + s.scrollX.toNat % 8 ∧ 8 * cy + r = y + s.scrollY.toNat % 8
    · rw [if_pos he, if_pos (by omega)]; rfl
    · rw [if_neg he, if_neg (by omega)]; rfl
  · rename_i hv
    rw [if_neg (by omega)]; rfl

/-- A search over a range, last first, in which at most one index succeeds. -/
theorem findSome?_range {β : Type} {n a : Nat} {f : Nat → Option β} (ha : a < n) (h : ∀ b, b ≠ a → f b = none) :
    (List.range n).reverse.findSome? f = f a :=
  findSome?_unique (by simpa using ha) (fun b _ hb => h b hb)

theorem findSome?_range_none {β : Type} {n : Nat} {f : Nat → Option β} (h : ∀ b, b < n → f b = none) :
    (List.range n).reverse.findSome? f = none := by
  rw [List.findSome?_eq_none_iff]
  intro b hb
  exact h b (by simpa using hb)

/-- What a background cell leaves at pixel (x, y): its own pixel if the pixel lies in the cell (R275). -/
theorem fbPixel_bgCell (c : NesRom) (s : State) (pat : List Byte) (cx cy : Nat) {x y : Nat} (hx : x < 256) (hy : y < 240)
    (fb : Framebuffer) :
    fbPixel (bgCell c s pat cx cy fb) x y =
      (if cx = (x + s.scrollX.toNat % 8) / 8 ∧ cy = (y + s.scrollY.toNat % 8) / 8 then
        some (cellColour c s pat (cellCoords s cx cy) ((y + s.scrollY.toNat % 8) % 8) ((x + s.scrollX.toNat % 8) % 8))
      else none).getD (fbPixel fb x y) := by
  simp only [bgCell]
  generalize hk : cellColour c s pat (cellCoords s cx cy) = k
  generalize hX : x + s.scrollX.toNat % 8 = X
  generalize hY : y + s.scrollY.toNat % 8 = Y
  have row : ∀ r ∈ List.range 8, ∀ fb,
      fbPixel ((List.range 8).foldl (fun fb col => bgPixel s cx cy (k r col) r col fb) fb) x y =
        (if cx = X / 8 ∧ 8 * cy + r = Y then some (k r (X % 8)) else none).getD (fbPixel fb x y) := by
    intro r _ fb
    rw [fbPixel_foldl _ (fun col fb => bgPixel s cx cy (k r col) r col fb)
      (fun col => if 8 * cx + col = X ∧ 8 * cy + r = Y then some (k r col) else none) x y
      (fun col _ fb => by rw [fbPixel_bgPixel s _ hx hy, hX, hY])]
    congr 1
    by_cases h : cx = X / 8 ∧ 8 * cy + r = Y
    · rw [if_pos h, findSome?_range (a := X % 8) (by omega) (fun b hb => if_neg (by omega)), if_pos (by omega)]
    · rw [if_neg h]
      exact findSome?_range_none fun b hb => if_neg (by omega)
  rw [fbPixel_foldl _ (fun r fb => (List.range 8).foldl (fun fb col => bgPixel s cx cy (k r col) r col fb) fb)
    (fun r => if cx = X / 8 ∧ 8 * cy + r = Y then some (k r (X % 8)) else none) x y row]
  congr 1
  by_cases h : cx = X / 8 ∧ cy = Y / 8
  · rw [if_pos h, findSome?_range (a := Y % 8) (by omega) (fun b hb => if_neg (by omega)), if_pos (by omega)]
  · rw [if_neg h]
    exact findSome?_range_none fun b hb => if_neg (by omega)

/-- The background pass covers every pixel: what it leaves there does not depend on the old picture (R282). -/
theorem fbPixel_bgPass (c : NesRom) (s : State) (pat : List Byte) {x y : Nat} (hx : x < 256) (hy : y < 240) (fb : Framebuffer) :
    fbPixel (bgPass c s pat fb) x y =
      cellColour c s pat (cellCoords s ((x + s.scrollX.toNat % 8) / 8) ((y + s.scrollY.toNat % 8) / 8))
        ((y + s.scrollY.toNat % 8) % 8) ((x + s.scrollX.toNat % 8) % 8) := by
  simp only [bgPass]
  have cell := fun cx cy => fbPixel_bgCell c s pat cx cy hx hy
  have hX : (x + s.scrollX.toNat % 8) / 8 < 33 := by omega
  have hY : (y + s.scrollY.toNat % 8) / 8 < 31 := by omega
  generalize hr : (y + s.scrollY.toNat % 8) % 8 = r at *
  generalize hc : (x + s.scrollX.toNat % 8) % 8 = col at *
  generalize (x + s.scrollX.toNat % 8) / 8 = X at *
  generalize (y + s.scrollY.toNat % 8) / 8 = Y at *
  have row : ∀ cy ∈ List.range 31, ∀ fb,
      fbPixel ((List.range 33).foldl (fun fb cx => bgCell c s pat cx cy fb) fb) x y =
        (if cy = Y then some (cellColour c s pat (cellCoords s X cy) r col) else none).getD (fbPixel fb x y) := by
    intro cy _ fb
    rw [fbPixel_foldl _ (fun cx fb => bgCell c s pat cx cy fb)
      (fun cx => if cx = X ∧ cy = Y then some (cellColour c s pat (cellCoords s cx cy) r col) else none) x y
      (fun cx _ fb => cell cx cy fb)]
    congr 1
    by_cases h : cy = Y
    · rw [if_pos h, findSome?_range (a := X) hX (fun b hb => if_neg (by omega)), if_pos ⟨rfl, h⟩]
    · rw [if_neg h]
      exact findSome?_range_none fun b hb => if_neg (by omega)
  rw [fbPixel_foldl _ (fun cy fb => (List.range 33).foldl (fun fb cx => bgCell c s pat cx cy fb) fb)
    (fun cy => if cy = Y then some (cellColour c s pat (cellCoords s X cy) r col) else none) x y row,
    findSome?_range (a := Y) hY (fun b hb => if_neg hb), if_pos rfl]
  rfl

/-- A sprite row puts pixels on its own line alone (R292). -/
theorem fbPixel_spriteRow (s : State) (h : Nat) (pat : List Byte) (q : Candidate) {line x y : Nat} (hl : line < 240) (hx : x < 256)
    (fb : Framebuffer) :
    fbPixel (spriteRow s h pat line q fb) x y =
      (if y = line ∧ (s.oamByte (4 * q.i + 3)).toNat ≤ x ∧ x < (s.oamByte (4 * q.i + 3)).toNat + 8 ∧
          spriteIndex s h pat q (x - (s.oamByte (4 * q.i + 3)).toNat) ≠ 0 then
        some (spColour s (objPalette (s.oamByte (4 * q.i + 2)))
          (spriteIndex s h pat q (x - (s.oamByte (4 * q.i + 3)).toNat)))
      else none).getD (fbPixel fb x y) := by
  simp only [spriteRow]
  generalize (s.oamByte (4 * q.i + 3)).toNat = left
  generalize hp : spColour s (objPalette (s.oamByte (4 * q.i + 2))) = colour
  generalize hi : spriteIndex s h pat q = index
  have pix : ∀ k ∈ List.range 8, ∀ fb,
      fbPixel (if index k = 0 then fb else if left + k ≥ 256 then fb
          else putPixel fb (left + k) line (colour (index k))) x y =
        (if y = line ∧ x = left + k ∧ index k ≠ 0 then some (colour (index k)) else none).getD (fbPixel fb x y) := by
    intro k _ fb
    by_cases h0 : index k = 0
    · rw [if_pos h0, if_neg (by simp [h0])]; rfl
    by_cases h1 : left + k ≥ 256
    · rw [if_neg h0, if_pos h1, if_neg (by omega)]; rfl
    · rw [if_neg h0, if_neg h1, fbPixel_putPixel fb _ (by omega) hl hx]
      by_cases h2 : y = line ∧ x = left + k
      · rw [if_pos h2.symm, if_pos ⟨h2.1, h2.2, h0⟩]; rfl
      · rw [if_neg (by omega), if_neg (by omega)]; rfl
  rw [fbPixel_foldl _ _ _ x y pix]
  congr 1
  by_cases hk : left ≤ x ∧ x < left + 8
  · rw [findSome?_range (a := x - left) (by omega) (fun b hb => if_neg (by omega))]
    by_cases hh : y = line ∧ index (x - left) ≠ 0
    · rw [if_pos ⟨hh.1, by omega, hh.2⟩, if_pos ⟨hh.1, hk.1, hk.2, hh.2⟩]
    · rw [if_neg (fun h => hh ⟨h.1, h.2.2⟩), if_neg (fun h => hh ⟨h.1, h.2.2.2⟩)]
  · rw [if_neg (by omega)]
    exact findSome?_range_none fun b hb => if_neg (by omega)

/-- The colour a candidate puts on column `x` of the line it is drawn on, if any. -/
def candidateColour (s : State) (h : Nat) (pat : List Byte) (x : Nat) (q : Candidate) : Option Rgb :=
  if (s.oamByte (4 * q.i + 3)).toNat ≤ x ∧ x < (s.oamByte (4 * q.i + 3)).toNat + 8 ∧
      spriteIndex s h pat q (x - (s.oamByte (4 * q.i + 3)).toNat) ≠ 0 then
    some (spColour s (objPalette (s.oamByte (4 * q.i + 2))) (spriteIndex s h pat q (x - (s.oamByte (4 * q.i + 3)).toNat)))
  else none

/-- The candidates in force on a line: those evaluated on the line before, none on line 0 (R285, R286). -/
def lineCandidates (s : State) (h line : Nat) : List Candidate :=
  if line = 0 then [] else spriteEval s (line - 1) h

/-- What the foreground pass leaves at a pixel after `n` lines: on a line already drawn the first opaque candidate wins (R295). -/
theorem fbPixel_spriteLines (s : State) (h : Nat) (pat : List Byte) {x : Nat} (hx : x < 256) (y n : Nat) (hn : n ≤ 240)
    (fb : Framebuffer) :
    ((List.range n).foldl (spriteLine s h pat) (fb, [])).2 = lineCandidates s h n ∧
    fbPixel ((List.range n).foldl (spriteLine s h pat) (fb, [])).1 x y =
      (if y < n then (lineCandidates s h y).findSome? (candidateColour s h pat x) else none).getD (fbPixel fb x y) := by
  induction n with
  | zero => exact ⟨rfl, by simp⟩
  | succ n ih =>
    obtain ⟨h2, h1⟩ := ih (by omega)
    rw [List.range_succ, List.foldl_append, List.foldl_cons, List.foldl_nil]
    generalize (List.range n).foldl (spriteLine s h pat) (fb, []) = r at h1 h2
    refine ⟨by simp [spriteLine, lineCandidates], ?_⟩
    simp only [spriteLine, h2]
    rw [fbPixel_foldl _ (fun q fb => spriteRow s h pat n q fb)
      (fun q => if y = n then candidateColour s h pat x q else none) x y
      (fun q _ fb => by
        rw [fbPixel_spriteRow s h pat q (by omega) hx]
        congr 1
        simp only [candidateColour]
        by_cases hy : y = n <;> simp [hy]), List.reverse_reverse, h1]
    by_cases hy : y = n
    · subst hy
      simp
    · have none_ : (lineCandidates s h n).findSome? (fun q => if y = n then candidateColour s h pat x q else none) = none := by
        simp [hy]
      rw [none_]
      by_cases hlt : y < n
      · rw [if_pos hlt, if_pos (by omega)]; rfl
      · rw [if_neg hlt, if_neg (by omega)]; rfl

/-- Every pixel after a frame: the first opaque candidate of the line before in OAM order, else the background (R270). -/
theorem fbPixel_renderFb (c : NesRom) (s : State) (pat : List Byte) {x y : Nat} (hx : x < 256) (hy : y < 240) :
    fbPixel (renderFb c s pat) x y =
      ((lineCandidates s (ctrlSpriteHeight s.ctrl) y).findSome?
          (candidateColour s (ctrlSpriteHeight s.ctrl) pat x)).getD
        (cellColour c s pat (cellCoords s ((x + s.scrollX.toNat % 8) / 8) ((y + s.scrollY.toNat % 8) / 8))
          ((y + s.scrollY.toNat % 8) % 8) ((x + s.scrollX.toNat % 8) % 8)) := by
  rw [renderFb, spritePass, (fbPixel_spriteLines s _ pat hx y 240 (Nat.le_refl _) _).2, if_pos hy, fbPixel_bgPass c s pat hx hy]

/-- A framebuffer is its pixels. -/
theorem framebuffer_ext {a b : Framebuffer} (h : ∀ x y, x < 256 → y < 240 → fbPixel a x y = fbPixel b x y) : a = b := by
  apply Vector.ext
  intro i hi
  have hp := h (i / 3 % 256) (i / 3 / 256) (by omega) (by simp only [fbSize] at hi; omega)
  have hi' : 3 * (256 * (i / 3 / 256) + i / 3 % 256) + i % 3 = i := by omega
  have h3 : i % 3 = 0 ∨ i % 3 = 1 ∨ i % 3 = 2 := by omega
  simp only [fbPixel, Rgb.mk.injEq] at hp
  obtain ⟨p0, p1, p2⟩ := hp
  have key : a[i]?.getD 0 = b[i]?.getD 0 := by
    rcases h3 with e | e | e <;> rw [e] at hi'
    · rw [← hi']; exact p0
    · rw [← hi']; exact p1
    · rw [← hi']; exact p2
  simpa [Vector.getElem?_eq_getElem hi] using key

/-- Sprite evaluation and the cell walk do not look at the old picture. -/
theorem spriteScan_of_fb (s : State) (fb : Framebuffer) (line h : Nat) (is : List Nat) (nb : List Candidate) :
    spriteScan { s with fb := fb } line h is nb = spriteScan s line h is nb := by
  have oam : ∀ i, State.oamByte { s with fb := fb } i = s.oamByte i := fun _ => rfl
  induction is generalizing nb with
  | nil => rfl
  | cons i is ih => simp only [spriteScan, oam, ih]

theorem cellRow_of_fb (s : State) (fb : Framebuffer) (cy : Nat) : cellRow { s with fb := fb } cy = cellRow s cy := by
  induction cy with
  | zero => rfl
  | succ cy ih => simp only [cellRow, ih]

/-- The old picture does not show in the new one (R282). -/
theorem renderFb_of_fb (c : NesRom) (s : State) (fb : Framebuffer) (pat : List Byte) :
    renderFb c { s with fb := fb } pat = renderFb c s pat := by
  have nt : ∀ i, State.ntByte { s with fb := fb } i = s.ntByte i := fun _ => rfl
  have pal : ∀ i, State.palByte { s with fb := fb } i = s.palByte i := fun _ => rfl
  have cand : ∀ h x, candidateColour { s with fb := fb } h pat x = candidateColour s h pat x := fun _ _ => rfl
  apply framebuffer_ext
  intro x y hx hy
  rw [fbPixel_renderFb c _ pat hx hy, fbPixel_renderFb c s pat hx hy]
  simp only [lineCandidates, spriteEval, spriteScan_of_fb, cand, paletteColour, cellColour,
    cellCoords, cellRow_of_fb, cellCol, bgColour, cellSel, cellTile, nt, pal]
  rfl

end Sys2Proof.Machine
end

