-- ==== Sys2Proof/Laws/Step.lean ====
section
/-! SUPPORT. A step taken apart: the operation given, its key, the operation the key decodes to, and its meaning. -/

namespace Sys2Proof.Machine

/-- The operation a request selects, as a function of the state it is given in (R102, R170, R171). -/
def selects (s : State) : Request → Option Instr
  | .read o a => s.cart.map fun c => busInstr s.w false { origin := o, logical := a, physical := translate c a o } 0x00
  | .write o a d => s.cart.map fun c => busInstr s.w true { origin := o, logical := a, physical := translate c a o } d
  | .host op image => decodeHostOp op image

/-- The operation of a well-formed access is well formed. -/
theorem busInstr_wellFormed (l w : Bool) (x : Access) (d : Byte) (h : x.consistent = true) :
    (busInstr l w x d).wellFormed = true := by
  have ha := x.physical.isLt
  have hm : x.physical.toNat % 8 < 8 := by omega
  unfold busInstr
  by_cases h1 : x.physical.toNat < 0x2000
  · simp only [h1, if_true]
    cases ho : x.origin <;> cases w <;> simp [Instr.wellFormed, Access.low, Access.within, h, h1, ho]
  by_cases h2 : x.physical.toNat < 0x4000
  · simp only [h1, h2, if_true, if_false]
    obtain e | e | e | e | e | e | e | e : x.physical.toNat % 8 = 0 ∨ x.physical.toNat % 8 = 1 ∨ x.physical.toNat % 8 = 2 ∨
        x.physical.toNat % 8 = 3 ∨ x.physical.toNat % 8 = 4 ∨ x.physical.toNat % 8 = 5 ∨ x.physical.toNat % 8 = 6 ∨
        x.physical.toNat % 8 = 7 := by omega
    all_goals
      have hge : 8192 ≤ x.physical.toNat := by omega
      cases w <;> cases l <;> simp [e, portInstr, Instr.wellFormed, Access.port, Access.within, h, h2, hge]
  simp only [h1, h2, if_false]
  by_cases e4 : x.physical.toNat = 0x4014
  · cases w <;> simp [e4, Instr.wellFormed, Access.exactly, Access.within, h]
  by_cases e5 : x.physical.toNat = 0x4015
  · cases w <;> simp [e5, Instr.wellFormed, Access.exactly, Access.within, h]
  by_cases e6 : x.physical.toNat = 0x4016
  · cases w <;> simp [e6, Instr.wellFormed, Access.exactly, Access.within, h]
  by_cases e7 : x.physical.toNat = 0x4017
  · cases w <;> simp [e7, Instr.wellFormed, Access.exactly, Access.within, h]
  simp only [e4, e5, e6, e7, false_and, if_false]
  by_cases h3 : x.physical.toNat < 0x4020
  · have hr : x.within 0x4000 0x4014 = true ∨ x.within 0x4018 0x4020 = true := by
      simp only [Access.within, h, Bool.true_and, Bool.and_eq_true, decide_eq_true_eq]
      omega
    have hr' : x.within 0x4000 0x4015 = true ∨ x.within 0x4018 0x4020 = true := by
      simp only [Access.within, h, Bool.true_and, Bool.and_eq_true, decide_eq_true_eq]
      omega
    cases w <;> simp [h3, Instr.wellFormed, hr, hr']
  by_cases h4 : x.physical.toNat < 0x8000
  · cases w <;> simp [h3, h4, Instr.wellFormed, Access.within, h, Nat.not_lt.mp h3]
  · cases w <;> simp [h3, h4, Instr.wellFormed, Access.within, h, Nat.not_lt.mp h4, ha]

theorem vramInstr_wellFormed (w : Bool) (p : PAddr) (d : Byte) : (vramInstr w p d).wellFormed = true := by
  have hp := p.isLt
  unfold vramInstr
  by_cases h1 : p.toNat < 0x2000
  · cases w <;> simp [h1, Instr.wellFormed, PAddr.within]
  by_cases h2 : p.toNat < 0x3000
  · cases w <;> simp [h1, h2, Instr.wellFormed, PAddr.within, Nat.not_lt.mp h1]
  by_cases h3 : p.toNat < 0x3F00
  · cases w <;> simp [h1, h2, h3, Instr.wellFormed, PAddr.within, Nat.not_lt.mp h2]
  · cases w <;> simp [h1, h2, h3, Instr.wellFormed, PAddr.within, Nat.not_lt.mp h3, hp]

theorem decodeHostOp_wellFormed {op : BitVec 4} {image : List Byte} {i : Instr} (h : decodeHostOp op image = some i) :
    i.wellFormed = true := by
  simp only [decodeHostOp] at h
  repeat' split at h
  all_goals first | cases h; rfl | cases h

/-- Every request that selects an operation selects a well-formed one. -/
theorem selects_wellFormed {s : State} {r : Request} {i : Instr} (h : selects s r = some i) : i.wellFormed = true := by
  cases r with
  | read o a =>
    simp only [selects, Option.map_eq_some_iff] at h
    obtain ⟨c, -, rfl⟩ := h
    exact busInstr_wellFormed _ _ _ _ (translate_consistent c a o)
  | write o a d =>
    simp only [selects, Option.map_eq_some_iff] at h
    obtain ⟨c, -, rfl⟩ := h
    exact busInstr_wellFormed _ _ _ _ (translate_consistent c a o)
  | host op image => exact decodeHostOp_wellFormed h

/-- A request that selects an operation runs it. -/
theorem runRequest_of_selects {s : State} {r : Request} {i : Instr} (h : selects s r = some i) :
    runRequest r s = exec i s := by
  have hw := selects_wellFormed h
  cases r with
  | read o a =>
    simp only [selects, Option.map_eq_some_iff] at h
    obtain ⟨c, hc, rfl⟩ := h
    simp only [runRequest, requestKey, hc, Option.map_some, runKey, decodeKey, decodeBusKey_busKey]
    exact if_pos hw
  | write o a d =>
    simp only [selects, Option.map_eq_some_iff] at h
    obtain ⟨c, hc, rfl⟩ := h
    simp only [runRequest, requestKey, hc, Option.map_some, runKey, decodeKey, decodeBusKey_busKey]
    exact if_pos hw
  | host op image =>
    simp only [selects] at h
    simp only [runRequest, requestKey, runKey, decodeKey, h]
    exact if_pos hw

/-- A request that selects none is refused: a bus transaction without a cartridge, a reserved host code (R11). -/
theorem runRequest_of_none {s : State} {r : Request} (h : selects s r = none) :
    runRequest r s = .refused .noCartridge ∨
      ∃ op image, r = .host op image ∧ runRequest r s = .refused (.undecodable (.reservedHostOp op)) := by
  cases r with
  | read o a =>
    simp only [selects, Option.map_eq_none_iff] at h
    exact .inl (by simp [runRequest, requestKey, h])
  | write o a d =>
    simp only [selects, Option.map_eq_none_iff] at h
    exact .inl (by simp [runRequest, requestKey, h])
  | host op image =>
    simp only [selects] at h
    exact .inr ⟨op, image, rfl, by simp [runRequest, requestKey, runKey, decodeKey, h]⟩

/-- No given operation has a VRAM key (R100). -/
theorem requestKey_not_vram {s : State} {r : Request} {k : Key} (h : requestKey s r = some k) : k.format ≠ .vram := by
  cases r <;> simp only [requestKey, Option.map_eq_some_iff, Option.some.injEq] at h
  · obtain ⟨c, -, rfl⟩ := h; nofun
  · obtain ⟨c, -, rfl⟩ := h; nofun
  · subst h; nofun

/-- A VRAM read row answers what `VramRead` gives (R240). -/
theorem exec_vramInstr_read (hc : s.cart = some c) (p : PAddr) : exec (vramInstr false p 0x00) s = answer (vramRead c p s) := by
  rcases vram_regions p with h | ⟨h, h'⟩ | ⟨h, h'⟩ | h
  · rw [vramRead_pat c s h]; simp [vramInstr, h, exec, execVrdPat, withCart_some hc]
  · rw [vramRead_nt c s h h']; simp [vramInstr, Nat.not_lt.mpr h, h', exec, execVrdNt, withCart_some hc]
  · have h0 : ¬p.toNat < 0x2000 := by omega
    rw [vramRead_ntm c s h h']; simp [vramInstr, h0, Nat.not_lt.mpr h, h', exec, execVrdNtm, withCart_some hc]
  · have h0 : ¬p.toNat < 0x2000 := by omega
    have h1 : ¬p.toNat < 0x3000 := by omega
    rw [vramRead_pal c s h]; simp [vramInstr, h0, h1, Nat.not_lt.mpr h, exec, execVrdPal, withCart_some hc]

/-- A VRAM write row leaves what `VramWrite` leaves (R241). -/
theorem exec_vramInstr_write (hc : s.cart = some c) (p : PAddr) (d : Byte) :
    exec (vramInstr true p d) s = .next (vramWrite c p d s) := by
  rcases vram_regions p with h | ⟨h, h'⟩ | ⟨h, h'⟩ | h
  · rw [vramWrite_pat c d s h]; simp [vramInstr, h, exec, execVwrPat, withCart_some hc]
  · rw [vramWrite_nt c d s h h']; simp [vramInstr, Nat.not_lt.mpr h, h', exec, execVwrNt, withCart_some hc]
  · have h0 : ¬p.toNat < 0x2000 := by omega
    rw [vramWrite_ntm c d s h h']; simp [vramInstr, h0, Nat.not_lt.mpr h, h', exec, execVwrNtm, withCart_some hc]
  · have h0 : ¬p.toNat < 0x2000 := by omega
    have h1 : ¬p.toNat < 0x3000 := by omega
    rw [vramWrite_pal c d s h]; simp [vramInstr, h0, h1, Nat.not_lt.mpr h, exec, execVwrPal, withCart_some hc]

/-- A step that answers a next state ran the well-formed operation its first request selects, with that request taken. -/
theorem step_next {s s' : State} (h : step s = .next s') :
    ∃ r rest i, s.requests = r :: rest ∧ selects { s with requests := rest } r = some i ∧ i.wellFormed = true ∧
      exec i { s with requests := rest } = .next s' := by
  unfold step at h
  split at h
  · cases h
  · rename_i r rest hr
    cases hs : selects { s with requests := rest } r with
    | none =>
      rcases runRequest_of_none hs with e | ⟨op, image, -, e⟩ <;> rw [e] at h <;> cases h
    | some i =>
      rw [runRequest_of_selects hs] at h
      exact ⟨r, rest, i, hr, hs, selects_wellFormed hs, h⟩

end Sys2Proof.Machine
end

