-- ==== Sys2Proof/Tests/Slice0.lean ====
section
/-! SUPPORT. Tests of the model and witnesses of the statements' hypotheses. An expected value comes from the spec: its opcode table,
its worked examples, or spec/95_test_vectors.md, whose vector a test names. -/

namespace Sys2Proof.Tests

open Sys2Proof Sys2Proof.Machine

/-! Decoding: words written field by field, `LWOA..AD..D` (R101), `WP..PD..D` (R103), `OOOO` (R104). -/

/-- RAM and CHR rows, with the words of 95_test_vectors.md B1 to B3. -/
theorem test_decode_ram_and_chr :
    decodeTableWord 27 0b000000001111111111100000000 = some (.rdRam ⟨.cpu, 0x07FF, 0x07FF⟩) ∧
    decodeTableWord 27 0b010000011111111111100010010 = some (.wrRam ⟨.cpu, 0x0FFF, 0x0FFF⟩ 0x12) ∧
    decodeTableWord 27 0b001000100000001000000000000 = some (.prdChr ⟨.ppu, 0x1010, 0x1010⟩) ∧
    decodeTableWord 27 0b011000000010010001110011001 = some (.pwrChr ⟨.ppu, 0x0123, 0x0123⟩ 0x99) := by
  decide

/-- PPU register read rows: window `0x2000` to `0x3FFF`, index A[2:0]. -/
theorem test_decode_port_reads :
    decodeTableWord 27 0b000001000000000000000000000 = some (.rdCtrl ⟨.cpu, 0x2000, 0x2000⟩) ∧
    decodeTableWord 27 0b000001000000000000100000000 = some (.rdMask ⟨.cpu, 0x2001, 0x2001⟩) ∧
    decodeTableWord 27 0b000001010100001001000000000 = some (.rdStatus ⟨.cpu, 0x2A12, 0x2A12⟩) ∧
    decodeTableWord 27 0b000001000000000001100000000 = some (.rdOamaddr ⟨.cpu, 0x2003, 0x2003⟩) ∧
    decodeTableWord 27 0b000001111111111110000000000 = some (.rdOamdata ⟨.cpu, 0x3FFC, 0x3FFC⟩) ∧
    decodeTableWord 27 0b000001000000000010100000000 = some (.rdScroll ⟨.cpu, 0x2005, 0x2005⟩) ∧
    decodeTableWord 27 0b000001000000000011000000000 = some (.rdAddr ⟨.cpu, 0x2006, 0x2006⟩) ∧
    decodeTableWord 27 0b000001111111111111100000000 = some (.rdData ⟨.cpu, 0x3FFF, 0x3FFF⟩) := by
  decide

/-- PPU register write rows; L selects the form at indices 5 and 6 (R114). -/
theorem test_decode_port_writes :
    decodeTableWord 27 0b010001111111111100010000000 = some (.wrCtrl ⟨.cpu, 0x3FF8, 0x3FF8⟩ 0x80) ∧
    decodeTableWord 27 0b110001000000000000100011110 = some (.wrMask ⟨.cpu, 0x2001, 0x2001⟩ 0x1E) ∧
    decodeTableWord 27 0b010001000000000001011111111 = some (.wrStatus ⟨.cpu, 0x2002, 0x2002⟩ 0xFF) ∧
    decodeTableWord 27 0b010001000000000001100010000 = some (.wrOamaddr ⟨.cpu, 0x2003, 0x2003⟩ 0x10) ∧
    decodeTableWord 27 0b010001000000000010010101010 = some (.wrOamdata ⟨.cpu, 0x2004, 0x2004⟩ 0xAA) ∧
    decodeTableWord 27 0b010001000000000010101111101 = some (.wrScrollX ⟨.cpu, 0x2005, 0x2005⟩ 0x7D) ∧
    decodeTableWord 27 0b110001000000000010101011110 = some (.wrScrollY ⟨.cpu, 0x2005, 0x2005⟩ 0x5E) ∧
    decodeTableWord 27 0b010001000000000011000100001 = some (.wrAddrHi ⟨.cpu, 0x2006, 0x2006⟩ 0x21) ∧
    decodeTableWord 27 0b110001111111111111000001000 = some (.wrAddrLo ⟨.cpu, 0x3FFE, 0x3FFE⟩ 0x08) ∧
    decodeTableWord 27 0b010001000000000011100001111 = some (.wrData ⟨.cpu, 0x2007, 0x2007⟩ 0x0F) := by
  decide

/-- exact IO rows, with the words of B4 to B7. -/
theorem test_decode_io :
    decodeTableWord 27 0b010010000000001010000000010 = some (.wrOamdma ⟨.cpu, 0x4014, 0x4014⟩ 0x02) ∧
    decodeTableWord 27 0b000010000000001010100000000 = some (.rdApustat ⟨.cpu, 0x4015, 0x4015⟩) ∧
    decodeTableWord 27 0b010010000000001010100001111 = some (.wrApu ⟨.cpu, 0x4015, 0x4015⟩ 0x0F) ∧
    decodeTableWord 27 0b000010000000001011000000000 = some (.rdJoy1 ⟨.cpu, 0x4016, 0x4016⟩) ∧
    decodeTableWord 27 0b010010000000001011000000001 = some (.wrJoy1 ⟨.cpu, 0x4016, 0x4016⟩ 0x01) ∧
    decodeTableWord 27 0b000010000000001011100000000 = some (.rdJoy2 ⟨.cpu, 0x4017, 0x4017⟩) ∧
    decodeTableWord 27 0b010010000000001011101000000 = some (.wrJoy2 ⟨.cpu, 0x4017, 0x4017⟩ 0x40) := by
  decide

/-- open-bus, low cartridge and PRG rows, with the words of B8 to B14 and their boundaries. -/
theorem test_decode_open_and_cartridge :
    decodeTableWord 27 0b000010000000001010000000000 = some (.rdOpen ⟨.cpu, 0x4014, 0x4014⟩) ∧
    decodeTableWord 27 0b000010000000001111100000000 = some (.rdOpen ⟨.cpu, 0x401F, 0x401F⟩) ∧
    decodeTableWord 27 0b010010000000001001100110000 = some (.wrOpen ⟨.cpu, 0x4013, 0x4013⟩ 0x30) ∧
    decodeTableWord 27 0b010010000000001100000110000 = some (.wrOpen ⟨.cpu, 0x4018, 0x4018⟩ 0x30) ∧
    decodeTableWord 27 0b000010000000010000000000000 = some (.rdCartlo ⟨.cpu, 0x4020, 0x4020⟩) ∧
    decodeTableWord 27 0b000011111111111111100000000 = some (.rdCartlo ⟨.cpu, 0x7FFF, 0x7FFF⟩) ∧
    decodeTableWord 27 0b010011000000000000000000001 = some (.wrCartlo ⟨.cpu, 0x6000, 0x6000⟩ 0x01) ∧
    decodeTableWord 27 0b000100000000000000000000000 = some (.rdPrg ⟨.cpu, 0x8000, 0x8000⟩) ∧
    decodeTableWord 27 0b001111111111111111100000000 = some (.rdPrg ⟨.ppu, 0xFFFF, 0xFFFF⟩) ∧
    decodeTableWord 27 0b010100000010010001100000101 = some (.wrPrg ⟨.cpu, 0x8123, 0x8123⟩ 0x05) := by
  decide

/-- VRAM rows at the ends of their regions. -/
theorem test_decode_vram :
    decodeTableWord 23 0b00111111111111100000000 = some (.vrdPat 0x1FFF) ∧
    decodeTableWord 23 0b10000000000000011111111 = some (.vwrPat 0x0000 0xFF) ∧
    decodeTableWord 23 0b01000000000000000000000 = some (.vrdNt 0x2000) ∧
    decodeTableWord 23 0b11011111111111100010001 = some (.vwrNt 0x2FFF 0x11) ∧
    decodeTableWord 23 0b01111101111111100000000 = some (.vrdNtm 0x3EFF) ∧
    decodeTableWord 23 0b11100000000000010011001 = some (.vwrNtm 0x3000 0x99) ∧
    decodeTableWord 23 0b01111111111111100000000 = some (.vrdPal 0x3FFF) ∧
    decodeTableWord 23 0b11111110000000000001111 = some (.vwrPal 0x3F00 0x0F) := by
  decide

/-- HOST rows; code 4 is reserved (R118), and a bit above the key is no key. -/
theorem test_decode_host :
    decodeTableWord 4 0b0000 = some .reset ∧
    decodeTableWord 4 0b0001 = some (.insert []) ∧
    decodeTableWord 4 0b0010 = some .render ∧
    decodeTableWord 4 0b0011 = some .ackview ∧
    decodeTableWord 4 0b0100 = none ∧
    decodeTableWord 4 0b1111 = none ∧
    decodeTableWord 27 0x8000000 = none ∧
    decodeTableWord 23 0x800000 = none := by
  decide

/-- The rows of spec/opcode_table.json in file order: match and mask of the BUS and the VRAM rows. -/
theorem test_opcode_table :
    busTable.map (fun r => (r.value, r.mask)) =
      [(0x0000000, 0x3E00000), (0x2000000, 0x3E00000), (0x1000000, 0x3E00000), (0x3000000, 0x3E00000), (0x0200000, 0x2E00700),
       (0x0200100, 0x2E00700), (0x0200200, 0x2E00700), (0x0200300, 0x2E00700), (0x0200400, 0x2E00700), (0x0200500, 0x2E00700),
       (0x0200600, 0x2E00700), (0x0200700, 0x2E00700), (0x2200000, 0x2E00700), (0x2200100, 0x2E00700), (0x2200200, 0x2E00700),
       (0x2200300, 0x2E00700), (0x2200400, 0x2E00700), (0x2200500, 0x6E00700), (0x6200500, 0x6E00700), (0x2200600, 0x6E00700),
       (0x6200600, 0x6E00700), (0x2200700, 0x2E00700), (0x2401400, 0x2FFFF00), (0x0401500, 0x2FFFF00), (0x2401500, 0x2FFFF00),
       (0x0401600, 0x2FFFF00), (0x2401600, 0x2FFFF00), (0x0401700, 0x2FFFF00), (0x2401700, 0x2FFFF00), (0x0400000, 0x2FFE000),
       (0x2400000, 0x2FFE000), (0x0400000, 0x2C00000), (0x2400000, 0x2C00000), (0x0800000, 0x2800000), (0x2800000, 0x2800000)] ∧
    vramTable.map (fun r => (r.value, r.mask)) =
      [(0x3F0000, 0x7F0000), (0x7F0000, 0x7F0000), (0x300000, 0x700000), (0x700000, 0x700000), (0x200000, 0x700000),
       (0x600000, 0x700000), (0x000000, 0x600000), (0x400000, 0x600000)] := by
  decide

/-- The encoder gives back the words of R121. -/
theorem test_encode_worked :
    encodeKey (.wrAddrHi ⟨.cpu, 0x2006, 0x2006⟩ 0x21) = .bus 0x2200621#27 0x2006 ∧
    encodeKey (.rdStatus ⟨.cpu, 0x2002, 0x2002⟩) = .bus 0x0200200#27 0x2002 ∧
    encodeKey (.wrOamdma ⟨.cpu, 0x4014, 0x4014⟩ 0x02) = .bus 0x2401402#27 0x4014 := by
  decide

/-! Well-formedness: for each check a term it refuses. -/

/-- An access in its window, and accesses with one thing wrong: the origin, the window, the index, the mirror. -/
theorem test_ill_formed_access :
    (Instr.rdRam ⟨.cpu, 0x1FFF, 0x1FFF⟩).wellFormed = true ∧
    (Instr.rdRam ⟨.ppu, 0x0000, 0x0000⟩).wellFormed = false ∧
    (Instr.prdChr ⟨.cpu, 0x0000, 0x0000⟩).wellFormed = false ∧
    (Instr.wrRam ⟨.cpu, 0x2000, 0x2000⟩ 0x00).wellFormed = false ∧
    (Instr.pwrChr ⟨.ppu, 0x2000, 0x2000⟩ 0x00).wellFormed = false ∧
    (Instr.rdRam ⟨.cpu, 0x0001, 0x0000⟩).wellFormed = false ∧
    (Instr.rdPrg ⟨.cpu, 0xC000, 0x8000⟩).wellFormed = true ∧
    (Instr.rdPrg ⟨.ppu, 0xC000, 0x8000⟩).wellFormed = false ∧
    (Instr.rdPrg ⟨.cpu, 0x0000, 0xC000⟩).wellFormed = false ∧
    (Instr.wrPrg ⟨.cpu, 0x7FFF, 0x7FFF⟩ 0x00).wellFormed = false ∧
    (Instr.rdCartlo ⟨.cpu, 0x401F, 0x401F⟩).wellFormed = false ∧
    (Instr.wrCartlo ⟨.cpu, 0x8000, 0x8000⟩ 0x00).wellFormed = false := by
  decide

/-- A port operation whose address has another register index, or lies outside the window. -/
theorem test_ill_formed_port :
    ([.rdCtrl ⟨.cpu, 0x2001, 0x2001⟩, .rdMask ⟨.cpu, 0x2000, 0x2000⟩, .rdStatus ⟨.cpu, 0x2003, 0x2003⟩,
      .rdOamaddr ⟨.cpu, 0x2004, 0x2004⟩, .rdOamdata ⟨.cpu, 0x2005, 0x2005⟩, .rdScroll ⟨.cpu, 0x2006, 0x2006⟩,
      .rdAddr ⟨.cpu, 0x2007, 0x2007⟩, .rdData ⟨.cpu, 0x2000, 0x2000⟩, .wrCtrl ⟨.cpu, 0x4000, 0x4000⟩ 0,
      .wrMask ⟨.cpu, 0x0001, 0x0001⟩ 0, .wrStatus ⟨.cpu, 0x2000, 0x2000⟩ 0, .wrOamaddr ⟨.cpu, 0x2000, 0x2000⟩ 0,
      .wrOamdata ⟨.cpu, 0x2000, 0x2000⟩ 0, .wrScrollX ⟨.cpu, 0x2006, 0x2006⟩ 0, .wrScrollY ⟨.cpu, 0x2006, 0x2006⟩ 0,
      .wrAddrHi ⟨.cpu, 0x2005, 0x2005⟩ 0, .wrAddrLo ⟨.cpu, 0x2005, 0x2005⟩ 0, .wrData ⟨.cpu, 0x2006, 0x2006⟩ 0] :
      List Instr).all (fun i => !i.wellFormed) = true := by
  decide

/-- An IO operation at the neighbouring address, an open-bus operation at an exact IO address. -/
theorem test_ill_formed_io :
    ([.wrOamdma ⟨.cpu, 0x4015, 0x4015⟩ 0, .rdApustat ⟨.cpu, 0x4014, 0x4014⟩, .wrApu ⟨.cpu, 0x4016, 0x4016⟩ 0,
      .rdJoy1 ⟨.cpu, 0x4017, 0x4017⟩, .wrJoy1 ⟨.cpu, 0x4017, 0x4017⟩ 0, .rdJoy2 ⟨.cpu, 0x4016, 0x4016⟩,
      .wrJoy2 ⟨.cpu, 0x4018, 0x4018⟩ 0, .rdOpen ⟨.cpu, 0x4015, 0x4015⟩, .rdOpen ⟨.cpu, 0x4020, 0x4020⟩,
      .wrOpen ⟨.cpu, 0x4014, 0x4014⟩ 0, .wrOpen ⟨.cpu, 0x4017, 0x4017⟩ 0] : List Instr).all (fun i => !i.wellFormed) = true := by
  decide

/-- A PPU address outside the row's region. -/
theorem test_ill_formed_vram :
    ([.vrdPal 0x3EFF, .vwrPal 0x0000 0, .vrdNtm 0x2FFF, .vwrNtm 0x3F00 0, .vrdNt 0x3000, .vwrNt 0x1FFF 0, .vrdPat 0x2000,
      .vwrPat 0x2000 0] : List Instr).all (fun i => !i.wellFormed) = true := by
  decide

/-! Single steps. -/

/-- A small cartridge: a few PRG and CHR bytes. -/
def demoCart (arr : Arrangement) (banks : Byte) : NesRom :=
  { emptyCart with
    prg := [0xA9, 0x01], chr := [0x3C, 0x7E], prgBankCount16K := banks, nametableArrangement := arr }

/-- A state with that cartridge, Vertical and one bank, and an operation given. -/
def demo (r : Request) : State :=
  { State.reset with cart := some (demoCart .vertical 1), requests := [r] }

/-- A request that stands for any. -/
def anyRead : Request := .read .cpu 0x2002

/-- What a step from `s` leaves, read by `f`. -/
def after {α : Type} (s : State) (f : State → α) : Option α :=
  match step s with
  | .next t => some (f t)
  | .fault _ => none
  | .refused _ => none

/-- The diagnostics of a CPU-origin access at an untranslated address. -/
def cpuDiag (k : DiagKind) (dir : Dir) (a : Addr) (d : Byte) : Event := .diag k dir .cpu a a d

/-- E1. -/
theorem test_rdRam :
    after { demo (.read .cpu 0x1805) with ram := [(5, 0xAB)] } (fun t => (t.replies, t.ram)) = some ([0xAB], [(5, 0xAB)]) := by
  decide
/-- B1. -/
theorem test_wrRam : after (demo (.write .cpu 0x0FFF 0x12)) (fun t => (t.ram, t.trace)) = some ([(0x7FF, 0x12)], []) := by decide
/-- B2 with another byte: PPU origin reaches CHR, not RAM. -/
theorem test_prdChr :
    after { demo (.read .ppu 0x0001) with ram := [(1, 0xAB)] } (fun t => (t.replies, t.trace)) = some ([0x7E], []) := by decide
/-- R322: past the end of CHR. -/
theorem test_prdChr_miss :
    after (demo (.read .ppu 0x0002)) (fun t => (t.replies, t.trace)) =
      some ([0x00], [.diag .unmappedAccess .r .ppu 0x0002 0x0002 0x00]) := by
  decide
/-- B3. -/
theorem test_pwrChr :
    after (demo (.write .ppu 0x0123 0x99)) (fun t => (t.trace, t.ram)) =
      some ([.diag .illegalPpuWrite .w .ppu 0x0123 0x0123 0x99], []) := by
  decide
/-- G9. -/
theorem test_rdCtrl :
    after { demo (.read .cpu 0x2000) with ctrl := 0xFF, w := true } (fun t => (t.replies, t.w, t.ctrl)) =
      some ([0x00], true, 0xFF) := by
  decide
/-- G9. -/
theorem test_rdMask : after { demo (.read .cpu 0x2001) with mask := 0x1E } (fun t => (t.replies, t.mask)) = some ([0x00], 0x1E) := by
  decide
/-- G8. -/
theorem test_rdStatus :
    after { demo (.read .cpu 0x2002) with vblank := true, w := true } (fun t => (t.replies, t.vblank, t.w)) =
      some ([0x80], false, false) := by
  decide
/-- G8, the second read. -/
theorem test_rdStatus_second : after (demo (.read .cpu 0x2A12)) (fun t => t.replies) = some [0x00] := by decide
/-- G9. -/
theorem test_rdOamaddr : after { demo (.read .cpu 0x2003) with oamAddr := 5 } (fun t => (t.replies, t.oamAddr)) = some ([0x00], 5) := by
  decide
/-- G12. -/
theorem test_rdOamdata :
    after { demo (.read .cpu 0x2004) with oamAddr := 5, oam := [(5, 0x77)] } (fun t => (t.replies, t.oamAddr)) =
      some ([0x77], 5) := by
  decide
/-- G9. -/
theorem test_rdScroll : after { demo (.read .cpu 0x2005) with w := true } (fun t => (t.replies, t.w)) = some ([0x00], true) := by decide
/-- G9. -/
theorem test_rdAddr : after { demo (.read .cpu 0x2006) with w := true } (fun t => (t.replies, t.w)) = some ([0x00], true) := by decide
/-- G14. -/
theorem test_rdData :
    after { demo (.read .cpu 0x2007) with nt := [(5, 0x42)], v := 0x2805 } (fun t => (t.replies, t.v)) = some ([0x42], 0x2806) := by
  decide
/-- G17. -/
theorem test_rdData_wrap :
    after { demo (.read .cpu 0x2007) with pal := [(0, 0x0F)], v := 0x7FE0, ctrl := 0x04 } (fun t => (t.replies, t.v)) =
      some ([0x0F], 0x0000) := by
  decide
/-- G1. -/
theorem test_wrCtrl : after (demo (.write .cpu 0x2000 0x93)) (fun t => (t.ctrl, t.t, t.w)) = some (0x93, 0x0C00, false) := by decide
/-- G2, G3. -/
theorem test_wrCtrl_clears :
    after { demo (.write .cpu 0x2000 0x80) with t := 0x7FFF, vblank := true } (fun t => (t.t, t.trace)) = some (0x73FF, []) := by
  decide
/-- G13. -/
theorem test_wrMask : after (demo (.write .cpu 0x2001 0x1E)) (fun t => t.mask) = some 0x1E := by decide
/-- G10. -/
theorem test_wrStatus :
    after { demo (.write .cpu 0x2002 0xFF) with vblank := true, w := true } (fun t => (t.vblank, t.w, t.trace)) =
      some (true, true, []) := by
  decide
/-- R213. -/
theorem test_wrOamaddr : after (demo (.write .cpu 0x2003 0x10)) (fun t => t.oamAddr) = some 0x10 := by decide
/-- G11. -/
theorem test_wrOamdata :
    after { demo (.write .cpu 0x2004 0xAA) with oamAddr := 0xFF } (fun t => (t.oam, t.oamAddr)) = some ([(0xFF, 0xAA)], 0x00) := by
  decide
/-- G4. -/
theorem test_wrScrollX :
    after (demo (.write .cpu 0x2005 0x7D)) (fun t => (t.scrollX, t.t, t.w)) = some (0x7D, 0x000F, true) := by
  decide
/-- G5. -/
theorem test_wrScrollY :
    after { demo (.write .cpu 0x2005 0x5E) with t := 0x000F, w := true } (fun t => (t.scrollY, t.t, t.w)) =
      some (0x5E, 0x616F, false) := by
  decide
/-- G6. -/
theorem test_wrAddrHi :
    after { demo (.write .cpu 0x2006 0xFF) with t := 0x7FFF } (fun t => (t.t, t.v, t.w)) = some (0x3FFF, 0x0000, true) := by
  decide
/-- G7. -/
theorem test_wrAddrLo :
    after { demo (.write .cpu 0x2006 0x00) with t := 0x3FFF, w := true } (fun t => (t.t, t.v, t.w)) =
      some (0x3F00, 0x3F00, false) := by
  decide
/-- G15. -/
theorem test_wrData :
    after { demo (.write .cpu 0x2007 0x01) with ctrl := 0x04, v := 0x23FF } (fun t => (t.nt, t.v, t.ntDirty)) =
      some ([(0x3FF, 0x01)], 0x241F, true) := by
  decide
/-- V3. -/
theorem test_wrData_pattern :
    after (demo (.write .cpu 0x2007 0xFF)) (fun t => (t.v, t.ntDirty, t.trace)) =
      some (0x0001, true, [.diag .readOnlyRegionWrite .w .ppu 0x0000 0x0000 0xFF]) := by
  decide
/-- M1, on three bytes of the page. -/
theorem test_wrOamdma :
    after { demo (.write .cpu 0x4014 0x1F) with ram := [(0x700, 0xFF), (0x701, 0xFE), (0x7FF, 0x00)], oamAddr := 0x40 }
      (fun t => (t.oamByte 0, t.oamByte 1, t.oamByte 255, t.oamAddr)) = some (0xFF, 0xFE, 0x00, 0x40) := by
  decide +kernel
/-- M3: the page of the PPU registers; its reads clear the flags and advance the address 32 times. -/
theorem test_wrOamdma_registers :
    after { demo (.write .cpu 0x4014 0x20) with vblank := true, w := true, v := 0x2000, oam := [(0, 0x5A)] }
      (fun t => (t.oamByte 2, t.oamByte 4, t.oamByte 10, t.vblank, t.w, t.v)) =
      some (0x80, 0x5A, 0x00, false, false, 0x2020) := by
  decide +kernel
/-- B4: whatever the draw is, nothing but the draw index moves. -/
theorem test_rdApustat : after (demo (.read .cpu 0x4015)) (fun t => (t.trace, t.draws)) = some ([], 2) := by decide
/-- B5. -/
theorem test_wrApu : after (demo (.write .cpu 0x4015 0x0F)) (fun t => t.trace) = some [.apuWrite 0x4015 0x0F] := by decide
/-- B6: no diagnostic. -/
theorem test_rdJoy1 : after (demo (.read .cpu 0x4016)) (fun t => t.trace) = some [] := by decide
/-- R183. -/
theorem test_wrJoy1 : after (demo (.write .cpu 0x4016 0x01)) (fun t => t.trace) = some [.inputWrite 0x4016 0x01] := by decide
/-- B6. -/
theorem test_rdJoy2 : after (demo (.read .cpu 0x4017)) (fun t => t.trace) = some [] := by decide
/-- B7. -/
theorem test_wrJoy2 : after (demo (.write .cpu 0x4017 0x40)) (fun t => t.trace) = some [.inputWrite 0x4017 0x40] := by decide
/-- B9. -/
theorem test_rdOpen :
    after (demo (.read .cpu 0x4014)) (fun t => (t.replies, t.trace)) = some ([0x00], [cpuDiag .unmappedAccess .r 0x4014 0x00]) := by
  decide
/-- B8. -/
theorem test_wrOpen : after (demo (.write .cpu 0x4000 0x30)) (fun t => t.trace) = some [cpuDiag .unmappedAccess .w 0x4000 0x30] := by
  decide
/-- B11. -/
theorem test_rdCartlo :
    after (demo (.read .cpu 0x4020)) (fun t => (t.replies, t.trace)) = some ([0x00], [cpuDiag .unmappedAccess .r 0x4020 0x00]) := by
  decide
/-- B12. -/
theorem test_wrCartlo :
    after (demo (.write .cpu 0x6000 0x01)) (fun t => t.trace) = some [cpuDiag .readOnlyRegionWrite .w 0x6000 0x01] := by
  decide
/-- E5: the one-bank mirror. -/
theorem test_rdPrg : after (demo (.read .cpu 0xC001)) (fun t => (t.replies, t.trace)) = some ([0x01], []) := by decide
/-- I12: past the end of PRG, with the logical and the translated address told apart (B13). -/
theorem test_rdPrg_miss :
    after (demo (.read .cpu 0xC002)) (fun t => (t.replies, t.trace)) =
      some ([0x00], [.diag .unmappedAccess .r .cpu 0xC002 0x8002 0x00]) := by
  decide
/-- B13. -/
theorem test_wrPrg :
    after (demo (.write .cpu 0xC123 0x05)) (fun t => t.trace) = some [.diag .readOnlyRegionWrite .w .cpu 0xC123 0x8123 0x05] := by
  decide
/-! The VRAM rows, as the data port performs them (R240, R241). -/

/-- What a VRAM row leaves of `s`, read by `f`. -/
def ran {α : Type} (i : Instr) (s : State) (f : State → α) : Option α :=
  match exec i s with
  | .next t => some (f t)
  | .fault _ => none
  | .refused _ => none

/-- V8. -/
theorem test_vrdPal : ran (.vrdPal 0x3FE1) { demo anyRead with pal := [(1, 0x2A)] } (fun t => t.replies) = some [0x2A] := by decide
/-- V7. -/
theorem test_vwrPal : ran (.vwrPal 0x3F10 0x30) (demo anyRead) (fun t => t.pal) = some [(0, 0x30)] := by decide
/-- R252. -/
theorem test_vrdNtm : ran (.vrdNtm 0x3005) { demo anyRead with nt := [(5, 0x42)] } (fun t => t.replies) = some [0x42] := by decide
/-- V5. -/
theorem test_vwrNtm : ran (.vwrNtm 0x3C10 0x99) (demo anyRead) (fun t => t.nt) = some [(0x410, 0x99)] := by decide
/-- R251. -/
theorem test_vrdNt : ran (.vrdNt 0x2805) { demo anyRead with nt := [(5, 0x42)] } (fun t => t.replies) = some [0x42] := by decide
/-- V4: Horizontal. -/
theorem test_vwrNt :
    ran (.vwrNt 0x2400 0x11) { demo anyRead with cart := some (demoCart .horizontal 1) } (fun t => t.nt) = some [(0, 0x11)] := by
  decide
/-- V2. -/
theorem test_vrdPat :
    ran (.vrdPat 0x0010) (demo anyRead) (fun t => (t.replies, t.trace)) =
      some ([0x00], [.diag .unmappedAccess .r .ppu 0x0010 0x0010 0x00]) := by
  decide
/-- R248. -/
theorem test_vwrPat :
    ran (.vwrPat 0x0000 0xFF) (demo anyRead) (fun t => t.trace) = some [.diag .readOnlyRegionWrite .w .ppu 0x0000 0x0000 0xFF] := by
  decide
/-- R360's example; the cartridge and the trace stay. -/
theorem test_reset :
    after { demo (.host 0 []) with ctrl := 0x80, scrollX := 0x10, t := 2, w := true, ram := [(0, 1)], trace := [.nmiRequest] }
      (fun t => (t.ctrl.toNat + t.t.toNat + t.scrollX.toNat, t.w, t.ram.length + t.powerOn, t.cart.isSome, t.trace)) =
      some (0, false, 1, true, [.nmiRequest]) := by
  decide
/-- I12 and I11's header bits: bits 1 and 3 of byte 6 and the low nibble of byte 7 are not interpreted. -/
theorem test_insert :
    after { State.reset with requests := [.host 1 [0x4E, 0x45, 0x53, 0x1A, 0, 0, 0x0B, 0x0F, 0, 0, 0, 0, 0, 0, 0, 0]] }
      (fun t => (t.cart.map (fun c => (c.nametableArrangement, c.mapperId, c.prg.length)), t.trace)) =
      some (some (.vertical, 0, 0), []) := by
  decide
/-- I9: the order of the mapper id's nibbles; I1: a failed INSERT keeps the cartridge. -/
theorem test_insert_fails :
    after (demo (.host 1 [0x4E, 0x45, 0x53, 0x1A, 0, 0, 0x10, 0x40, 0, 0, 0, 0, 0, 0, 0, 0]))
        (fun t => (t.cart.isSome, t.trace)) = some (true, [.formatErr .unsupportedMapper (some 0x41)]) ∧
      after (demo (.host 1 [0x4E, 0x45, 0x53])) (fun t => (t.cart.isSome, t.trace)) =
        some (true, [.formatErr .badSignature none]) := by
  decide
/-- R297, R298, X14's form of the events: NmiRequest, then FramePresented. -/
theorem test_render_events :
    frameEvents { State.reset with ctrl := 0x80 } = [.nmiRequest, .framePresented] ∧ frameEvents State.reset = [.framePresented] := by
  decide
/-- R270: RENDER completes with the flag set and writes no other register. -/
theorem test_render :
    (match exec .render { demo (.host 2 []) with v := 0x2108, w := true } with
      | .next t => t.vblank && t.w && decide (t.v = 0x2108)
      | _ => false) = true := by
  decide
/-- R299. -/
theorem test_ackview : after { demo (.host 3 []) with ntDirty := true, w := true } (fun t => (t.ntDirty, t.w)) = some (false, true) := by
  decide
/-- B15 and R118: refused. -/
theorem test_refused :
    (match step { State.reset with requests := [.read .cpu 0x0000] } with
      | .refused r => decide (r = .noCartridge)
      | _ => false) = true ∧
    (match step (demo (.host 4 [])) with
      | .refused r => decide (r = .undecodable (.reservedHostOp 4))
      | _ => false) = true ∧
    (match step State.reset with
      | .refused r => decide (r = .noRequest)
      | _ => false) = true := by
  decide
/-- A table word placed by withFetchWord runs first after reset: WR.ADDR.LO, and VWR.PAL by the data port's write. -/
theorem test_withFetchWord :
    after (State.reset.withFetchWord 27 0b110001000000000011000001000) (fun t => (t.v, t.w, t.requests.length)) =
        some (0x0008, false, 0) ∧
      after (State.reset.withFetchWord 23 0b11111110000000001010100) (fun t => (t.pal, t.requests.length)) =
        some ([(0, 0x54)], 0) := by
  decide

/-! Rendering helpers on the spec's examples. -/

/-- R273's example. -/
theorem test_tilePixel :
    tilePixel (List.replicate 16 0 ++ [0x80, 0, 0, 0, 0, 0, 0, 0, 0x80]) 0 1 0 0 = 3 ∧
    tilePixel (List.replicate 16 0 ++ [0x80, 0, 0, 0, 0, 0, 0, 0, 0x80]) 0 1 0 1 = 0 := by
  decide
/-- X4, X5, X6. -/
theorem test_cellCoords :
    (List.range 3).map (cellCoords { State.reset with scrollY := 0xE8 } 0) = [⟨0, 0, 29⟩, ⟨2, 0, 0⟩, ⟨2, 0, 1⟩] ∧
    (List.range 4).map (cellCoords { State.reset with scrollY := 0xF0 } 0) = [⟨0, 0, 30⟩, ⟨0, 0, 31⟩, ⟨0, 0, 0⟩, ⟨0, 0, 1⟩] ∧
    cellCoords { State.reset with t := 0x0C00, scrollX := 8, scrollY := 8 } 0 0 = ⟨3, 1, 1⟩ ∧
    cellCoords { State.reset with t := 0x0C00, scrollX := 8, scrollY := 8 } 31 0 = ⟨2, 0, 1⟩ ∧
    cellCoords { State.reset with t := 0x0C00, scrollX := 8, scrollY := 8 } 32 30 = ⟨0, 1, 1⟩ := by
  decide
/-- R279's example: the attribute address and the field of tile (5, 2). -/
theorem test_cellSel :
    attrAddr ⟨0, 5, 2⟩ = 0x23C1 ∧
    cellSel (demoCart .vertical 1) { State.reset with nt := [(0x3C1, 0x20)] } ⟨0, 5, 2⟩ = 2 := by
  decide
/-- X9's tile rows: 16-pixel sprites, plain and flipped. -/
theorem test_spriteTile :
    spriteTile 0x20 16 0x03 0x00 0 = ⟨1, 2, 0⟩ ∧ spriteTile 0x20 16 0x03 0x00 8 = ⟨1, 3, 0⟩ ∧
    spriteTile 0x20 16 0x03 0x80 0 = ⟨1, 3, 7⟩ ∧ spriteTile 0x08 8 0x01 0x80 2 = ⟨1, 1, 5⟩ := by
  decide
/-- The table of `NtIndex` in 95_test_vectors.md. -/
theorem test_ntIndex :
    [0x2000, 0x2400, 0x2800, 0x2C00, 0x23FF, 0x2BC5, 0x2FFF].map (ntIndex .vertical) =
      [0x000, 0x400, 0x000, 0x400, 0x3FF, 0x3C5, 0x7FF] ∧
    [0x2000, 0x2400, 0x2800, 0x2C00, 0x23FF, 0x2BC5, 0x2FFF].map (ntIndex .horizontal) =
      [0x000, 0x000, 0x400, 0x400, 0x3FF, 0x7C5, 0x7FF] := by
  decide
/-- The table of `PalIndex` in 95_test_vectors.md. -/
theorem test_palIndex :
    [0x3F00, 0x3F01, 0x3F0F, 0x3F10, 0x3F11, 0x3F14, 0x3F18, 0x3F1C, 0x3F1F, 0x3F20, 0x3F30, 0x3FF0, 0x3FFF].map palIndex =
      [0x00, 0x01, 0x0F, 0x00, 0x11, 0x04, 0x08, 0x0C, 0x1F, 0x00, 0x00, 0x00, 0x1F] := by
  decide

/-! Witnesses: for each statement of Certificates/Slice0/Obligations.lean with hypotheses, states and operands that meet them all,
at the ends of their ranges. -/

/-- An access whose address is not translated. -/
def at_ (o : Origin) (a : Addr) : Access := ⟨o, a, a⟩

/-- The statements whose one hypothesis is a cartridge (BusDecodeIsTotalAndFirstMatch, CollaboratorReads and others). -/
theorem witness_cart : ∃ (s : State) (c : NesRom), s.cart = some c := ⟨demo anyRead, _, rfl⟩

/-- R361, R382: State.reset is a power-on state. -/
theorem test_powerOnState : Safety.PowerOnState State.reset := by
  refine ⟨rfl, rfl, rfl, rfl, rfl, rfl, rfl, rfl, rfl, rfl, rfl, rfl, rfl, rfl, fun i => ?_, rfl, rfl⟩
  simp only [State.fbByte, State.reset, Vector.getElem?_replicate]
  split <;> rfl

theorem witness_HostCodesAndReservedRefused :
    ∃ (s t : State) (op op' : BitVec 4) (img : List Byte), 4 ≤ op.toNat ∧ s.requests = [.host op img] ∧ op.toNat = 4 ∧
      4 ≤ op'.toNat ∧ t.requests = [.host op' img] ∧ op'.toNat = 15 :=
  ⟨demo (.host 4 []), demo (.host 15 []), 4, 15, [], by decide, rfl, by decide, by decide, rfl, by decide⟩

theorem witness_DecodeOfEncodeIsIdentity :
    (Instr.rdPrg ⟨.cpu, 0xFFFF, 0xBFFF⟩).wellFormed = true ∧ (Instr.vwrPal 0x3F00 0xFF).wellFormed = true ∧
    (Instr.insert [0x00]).wellFormed = true := by
  decide

theorem witness_EncodeOfDecodeKeepsBusKey :
    ∃ (w w' : Bool) (d d' : Byte), (w = false → d = 0) ∧ w = false ∧ (w' = false → d' = 0) ∧ w' = true ∧ d' = 0xFF :=
  ⟨false, true, 0, 0xFF, fun _ => rfl, rfl, nofun, rfl, rfl⟩

/-- GivenOperationsAreWellFormed and the clauses of VramDecodeByRegion. -/
theorem witness_GivenOperationsAreWellFormed :
    (∃ (s : State) (r : Request) (k : Key) (i : Instr), requestKey s r = some k ∧ decodeKey k = .instr i) ∧
    ∃ (k : BitVec 23) (i : Instr), decodeVramKey k = some i ∧ k = vramKey true 0x3FFF 0xFF :=
  ⟨⟨demo anyRead, .read .cpu 0xC000, .bus (busKey false false .cpu 0x8000 0x00) 0xC000, .rdPrg ⟨.cpu, 0xC000, 0x8000⟩, by decide,
    by decide⟩, vramKey true 0x3FFF 0xFF, .vwrPal 0x3FFF 0xFF, by decide, rfl⟩

theorem witness_StepRunsDecodedOperation :
    ∃ (s : State) (r : Request) (rest : List Request) (k : Key) (i : Instr), s.requests = r :: rest ∧
      requestKey { s with requests := rest } r = some k ∧ decodeKey k = .instr i ∧ i.wellFormed = true :=
  ⟨demo (.write .cpu 0x2006 0x21), .write .cpu 0x2006 0x21, [], .bus 0x2200621#27 0x2006, .wrAddrHi (at_ .cpu 0x2006) 0x21, rfl, by decide,
    by decide, by decide⟩

theorem witness_BusTransactionRunsItsRow : State.reset.cart = none ∧ ∃ c, (demo anyRead).cart = some c := ⟨rfl, _, rfl⟩

theorem witness_NoCartridgeRefusesAllButResetAndInsert :
    State.reset.cart = none ∧ ∃ i : Instr, i ≠ .reset ∧ ∀ img, i ≠ .insert img :=
  ⟨rfl, .render, by decide, fun _ => nofun⟩

theorem witness_EveryOperationCompletesWithCartridge :
    ∃ (s : State) (r : Request) (c : NesRom), s.requests = [r] ∧ s.cart = some c ∧ ∀ op img, r = .host op img → op.toNat < 4 :=
  ⟨demo (.host 3 []), .host 3 [], _, rfl, rfl, by rintro op img h; cases h; decide⟩

/-- A state with the cartridge of I12, for the invariant. -/
def small : State :=
  { State.reset with
    cart := some emptyCart, oam := [(0, 0x5A), (255, 0x01)], pal := [(0, 0x0F)], requests := [.write .cpu 0x2006 0x21] }

theorem witness_StepKeepsInvariant : Safety.Inv small ∧ ∃ s', step small = .next s' :=
  ⟨⟨by decide, by decide, by decide, by decide, by decide, by intro c h; cases h; decide⟩, _, rfl⟩

theorem witness_RamReadAndWrite :
    (∃ (s : State) (c : NesRom) (x : Access), s.cart = some c ∧ x.origin = .cpu ∧ x.physical.toNat < 0x2000 ∧ x.physical = 0x1FFF) ∧
    ∃ (s : State) (c : NesRom) (x : Access), s.cart = some c ∧ x.origin = .cpu ∧ x.physical.toNat < 0x2000 ∧ x.physical = 0x0000 :=
  ⟨⟨demo anyRead, _, at_ .cpu 0x1FFF, rfl, rfl, by decide, rfl⟩, demo anyRead, _, at_ .cpu 0x0000, rfl, rfl, by decide, rfl⟩

theorem witness_RamMirrorsAreOneCell :
    ∃ (s : State) (c : NesRom) (x y : Access), s.cart = some c ∧ x.origin = .cpu ∧ x.physical.toNat < 0x2000 ∧
      y.origin = .cpu ∧ y.physical.toNat < 0x2000 ∧ y.physical.toNat % 0x0800 = x.physical.toNat % 0x0800 ∧ x ≠ y :=
  ⟨demo anyRead, _, at_ .cpu 0x0005, at_ .cpu 0x1805, rfl, rfl, by decide, rfl, by decide, by decide, by decide⟩

theorem witness_PpuOriginBelow2000 :
    ∃ (s : State) (c : NesRom) (x : Access), s.cart = some c ∧ x.origin = .ppu ∧ x.physical.toNat < 0x2000 ∧ x.physical = 0x1FFF :=
  ⟨demo anyRead, _, at_ .ppu 0x1FFF, rfl, rfl, by decide, rfl⟩

theorem witness_PrgRead :
    ∃ (s : State) (c : NesRom) (x : Access), s.cart = some c ∧ 0x8000 ≤ x.physical.toNat ∧ x.physical = 0x8000 :=
  ⟨demo anyRead, _, at_ .cpu 0x8000, rfl, by decide, rfl⟩

theorem witness_UnmappedReadsAnswerZero :
    ∃ (s : State) (c : NesRom), s.cart = some c ∧
      (∀ a ∈ [0x4000, 0x4014, 0x4018, 0x401F], 0x4000 ≤ a ∧ a < 0x4020 ∧ a ∉ [0x4015, 0x4016, 0x4017]) ∧
      ∀ a ∈ [0x4020, 0x7FFF], 0x4020 ≤ a ∧ a < 0x8000 :=
  ⟨demo anyRead, _, rfl, by decide, by decide⟩

theorem witness_DroppedWritesOnlyLog :
    ∃ (s : State) (c : NesRom), s.cart = some c ∧
      (∀ a ∈ [0x4000, 0x4013, 0x4018, 0x401F], 0x4000 ≤ a ∧ a < 0x4020 ∧ a ∉ [0x4014, 0x4015, 0x4016, 0x4017]) ∧
      (∀ a ∈ [0x4020, 0x7FFF], 0x4020 ≤ a ∧ a < 0x8000) ∧ ∀ a ∈ [0x8000, 0xFFFF], 0x8000 ≤ a :=
  ⟨demo anyRead, _, rfl, by decide, by decide, by decide⟩

theorem witness_OneBankPrgMirror :
    ∃ (s : State) (c : NesRom) (k : Nat), s.cart = some c ∧ c.prgBankCount16K = 1 ∧ c.prg.length = 16384 ∧ k < 0x4000 ∧ k = 0x3FFF :=
  ⟨{ State.reset with cart := some { emptyCart with prg := List.replicate 16384 0x60, prgBankCount16K := 1 } }, _, 0x3FFF, rfl, rfl,
    List.length_replicate, by decide, rfl⟩

theorem witness_OamDmaReadsThenCopies :
    ∃ (s : State) (c : NesRom) (x : Access), s.cart = some c ∧ x.physical = 0x4014 := ⟨demo anyRead, _, at_ .cpu 0x4014, rfl, rfl⟩

theorem witness_OamDmaFromRamPage :
    ∃ (s : State) (c : NesRom) (d : Byte), s.cart = some c ∧ d.toNat < 0x20 ∧ d = 0x1F := ⟨demo anyRead, _, 0x1F, rfl, by decide, rfl⟩

/-- CollaboratorReads and CollaboratorWrites: each clause's address. -/
theorem witness_Collaborators :
    (∃ c, (demo anyRead).cart = some c) ∧ (at_ .cpu 0x4015).physical = 0x4015 ∧ (at_ .cpu 0x4016).physical = 0x4016 ∧
    (at_ .ppu 0x4017).physical = 0x4017 := ⟨⟨_, rfl⟩, rfl, rfl, rfl⟩

/-- The statements about the register ports: each index at both ends of the window. -/
theorem witness_ports :
    (∃ c, (demo anyRead).cart = some c) ∧
    (Spec.inPort (at_ .cpu 0x2000) 0 ∧ Spec.inPort (at_ .cpu 0x3FF8) 0) ∧ (Spec.inPort (at_ .cpu 0x2001) 1 ∧ Spec.inPort (at_ .cpu 0x3FF9) 1) ∧
    (Spec.inPort (at_ .cpu 0x2002) 2 ∧ Spec.inPort (at_ .ppu 0x3FFA) 2) ∧ (Spec.inPort (at_ .cpu 0x2003) 3 ∧ Spec.inPort (at_ .cpu 0x3FFB) 3) ∧
    (Spec.inPort (at_ .cpu 0x2004) 4 ∧ Spec.inPort (at_ .cpu 0x3FFC) 4) ∧ (Spec.inPort (at_ .cpu 0x2005) 5 ∧ Spec.inPort (at_ .cpu 0x3FFD) 5) ∧
    (Spec.inPort (at_ .cpu 0x2006) 6 ∧ Spec.inPort (at_ .cpu 0x3FFE) 6) ∧ Spec.inPort (at_ .cpu 0x2007) 7 ∧ Spec.inPort (at_ .cpu 0x3FFF) 7 := by
  refine ⟨⟨_, rfl⟩, ?_⟩
  unfold Spec.inPort
  decide

theorem witness_RegisterMirrorsAreOneRegister :
    ∃ a b : Addr, 0x2000 ≤ a.toNat ∧ a.toNat < 0x4000 ∧ b.toNat = 0x2000 + (a.toNat - 0x2000) % 8 ∧ a = 0x3FFF ∧ b = 0x2007 :=
  ⟨0x3FFF, 0x2007, by decide, by decide, by decide, rfl, rfl⟩

/-- Each clause of WriteLatchRule and of OneDiagnosticPerTransaction, and TraceOnlyGrows: a step that answers. -/
theorem witness_WriteLatchRule :
    (∃ c, (demo anyRead).cart = some c) ∧ (0x2005 : Addr) ≠ 0x4014 ∧
    (∃ t, step { demo anyRead with requests := [.write .cpu 0x2005 0x01] } = .next t) ∧
    (∃ t, step { demo anyRead with requests := [.write .cpu 0x3FFE 0x01] } = .next t) ∧
    (∃ t, step { demo anyRead with requests := [.write .cpu 0x4000 0x01] } = .next t) ∧
    (∃ t, step { demo anyRead with requests := [.write .cpu 0x4014 0x02] } = .next t) ∧
    (∃ t, step { demo anyRead with requests := [.read .cpu 0x2002] } = .next t) ∧
    (∃ t, step { demo anyRead with requests := [.read .cpu 0xFFFF] } = .next t) ∧
    (3 : BitVec 4) ≠ 0 ∧ ∃ t, step { demo anyRead with requests := [.host 3 []] } = .next t :=
  ⟨⟨_, rfl⟩, by decide, ⟨_, rfl⟩, ⟨_, rfl⟩, ⟨_, rfl⟩, ⟨_, rfl⟩, ⟨_, rfl⟩, ⟨_, rfl⟩, by decide, _, rfl⟩

/-- VramReadRows and VramWriteRows: each region at both ends. -/
theorem witness_VramRows :
    (∃ c, (demo anyRead).cart = some c) ∧ ∀ r ∈ ([(0, 0x1FFF, 0, 0x2000), (0x2000, 0x2FFF, 0x2000, 0x3000),
      (0x3000, 0x3EFF, 0x3000, 0x3F00), (0x3F00, 0x3FFF, 0x3F00, 0x4000)] : List (PAddr × PAddr × Nat × Nat)),
      r.2.2.1 ≤ r.1.toNat ∧ r.1.toNat < r.2.2.2 ∧ r.2.2.1 ≤ r.2.1.toNat ∧ r.2.1.toNat < r.2.2.2 :=
  ⟨⟨_, rfl⟩, by decide⟩

theorem witness_NametableMirroring :
    ∃ p q : PAddr, 0x2000 ≤ p.toNat ∧ p.toNat < 0x3000 ∧ p = 0x2000 ∧ 0x2000 ≤ q.toNat ∧ q.toNat < 0x3000 ∧ q = 0x2FFF :=
  ⟨0x2000, 0x2FFF, by decide, by decide, rfl, by decide, by decide, rfl⟩

theorem witness_PaletteIndexFolds : ∃ p q : PAddr, 0x3F00 ≤ p.toNat ∧ 0x3F00 ≤ q.toNat ∧ p = 0x3F10 ∧ q = 0x3F20 :=
  ⟨0x3F10, 0x3F20, by decide, by decide, rfl, rfl⟩

/-- The 16-byte image of I12 with a given header byte 6 and 7. -/
def header (b4 b6 b7 : Byte) : List Byte := [0x4E, 0x45, 0x53, 0x1A, b4, 0, b6, b7, 0, 0, 0, 0, 0, 0, 0, 0]

/-- Without a trainer (I12) and with one (I6's header, no PRG). -/
theorem witness_InsertOfAGoodImage :
    (∃ img : List Byte, ((img.getD 6 0).getLsbD 2 = false) ∧ img.take 4 = [0x4E, 0x45, 0x53, 0x1A] ∧
      16 + 0 + (img.getD 4 0).toNat * 16384 + (img.getD 5 0).toNat * 8192 ≤ img.length ∧
      (img.getD 7 0).toNat / 16 * 16 + (img.getD 6 0).toNat / 16 = 0) ∧
    ∃ img : List Byte, ((img.getD 6 0).getLsbD 2 = true) ∧ img.take 4 = [0x4E, 0x45, 0x53, 0x1A] ∧
      16 + 512 + (img.getD 4 0).toNat * 16384 + (img.getD 5 0).toNat * 8192 ≤ img.length ∧
      (img.getD 7 0).toNat / 16 * 16 + (img.getD 6 0).toNat / 16 = 0 :=
  ⟨⟨header 0 0x01 0x0F, by decide⟩, header 0 0x04 0x00 ++ List.replicate 512 0xEE, rfl, rfl,
    by rw [List.length_append, List.length_replicate]; decide, rfl⟩

/-- The four failures: no magic (I1, I2), no header (I3), no data (I4's form), mapper 0x41 (I9). -/
theorem witness_InsertReportsFirstFailingCheck :
    (([0x4E, 0x45, 0x53] : List Byte).length < 4) ∧ (([0x4E, 0x45, 0x53, 0x1B] : List Byte).take 4 ≠ [0x4E, 0x45, 0x53, 0x1A]) ∧
    (4 ≤ ([0x4E, 0x45, 0x53, 0x1A, 0x01] : List Byte).length ∧ ([0x4E, 0x45, 0x53, 0x1A, 0x01] : List Byte).length < 16) ∧
    ((header 1 0 0).length < 16 + 0 + ((header 1 0 0).getD 4 0).toNat * 16384) ∧
    (16 ≤ (header 0 0x10 0x40).length ∧ (header 0 0x10 0x40).take 4 = [0x4E, 0x45, 0x53, 0x1A] ∧
      ((header 0 0x10 0x40).getD 7 0).toNat / 16 * 16 + ((header 0 0x10 0x40).getD 6 0).toNat / 16 ≠ 0) := by
  decide

/-- Two different states that agree on everything the picture depends on. -/
theorem witness_PictureDependsOnlyOnNamedState :
    ∃ (s s' : State) (c c' : NesRom), s.cart = some c ∧ s'.cart = some c' ∧ s.ctrl = s'.ctrl ∧ s.scrollX = s'.scrollX ∧
      s.scrollY = s'.scrollY ∧ s.t.extractLsb' 10 2 = s'.t.extractLsb' 10 2 ∧ (∀ i, i < 2048 → s.ntByte i = s'.ntByte i) ∧
      (∀ i, i < 32 → s.palByte i = s'.palByte i) ∧ (∀ i, i < 256 → s.oamByte i = s'.oamByte i) ∧ c.chr = c'.chr ∧
      c.nametableArrangement = c'.nametableArrangement ∧ s.t ≠ s'.t ∧ s.mask ≠ s'.mask ∧ c.prg ≠ c'.prg :=
  ⟨demo anyRead, { demo anyRead with t := 0x73FF, mask := 0x1E, cart := some { demoCart .vertical 1 with prg := [] } }, _, _, rfl, rfl, rfl, rfl,
    rfl, by decide, fun _ _ => rfl, fun _ _ => rfl, fun _ _ => rfl, rfl, rfl, by decide, by decide, by decide⟩

theorem witness_SpriteEvaluationFirstEight : ∃ line : Nat, line < 240 ∧ line = 239 := ⟨239, by decide, rfl⟩

theorem witness_BackgroundCellWalk : ∃ cx cy : Nat, cx < 33 ∧ cy < 31 ∧ cx = 32 ∧ cy = 30 := ⟨32, 30, by decide, by decide, rfl, rfl⟩

/-- R301's CHR: tile 0 blank, tile 1 with plane 0 all ones. -/
def exampleCart : NesRom :=
  { emptyCart with
    chr := List.replicate 16 0x00 ++ (List.replicate 8 0xFF ++ (List.replicate 8 0x00 ++ List.replicate 8160 0x00))
    chrBankCount8K := 1 }

/-- R301's state. -/
def exampleState : State :=
  { State.reset with
    cart := some exampleCart, pal := [(0x00, 0x0F), (0x11, 0x16)], nt := Memory.writeAll [] 0 (List.replicate 2048 0x00)
    oam := [(0, 0x10), (1, 0x01), (2, 0x00), (3, 0x20)] ++ (List.range 63).map (fun i => (4 * (i + 1), 0xFF)) }

theorem witness_RenderWorkedExample :
    exampleState.cart = some exampleCart ∧ exampleCart.chr.length = 8192 ∧
    (∀ k, k < 8 → exampleCart.chr.getD (16 + k) 0 = 0xFF ∧ exampleCart.chr.getD (24 + k) 0 = 0x00) ∧
    (∀ k, k < 16 → exampleCart.chr.getD k 0 = 0x00) ∧ exampleState.palByte 0x00 = 0x0F ∧ exampleState.palByte 0x11 = 0x16 ∧
    (∀ i, i < 2048 → exampleState.ntByte i = 0x00) ∧ exampleState.ctrl = 0x00 ∧ exampleState.scrollX = 0x00 ∧
    exampleState.scrollY = 0x00 ∧ exampleState.oamByte 0 = 0x10 ∧ exampleState.oamByte 1 = 0x01 ∧ exampleState.oamByte 2 = 0x00 ∧
    exampleState.oamByte 3 = 0x20 ∧ ∀ i, 1 ≤ i → i < 64 → exampleState.oamByte (4 * i) = 0xFF := by
  refine ⟨rfl, ?_, ?_, ?_, rfl, rfl, ?_, rfl, rfl, rfl, rfl, rfl, rfl, rfl, ?_⟩
  · simp [exampleCart, -List.reduceReplicate]
  · intro k hk
    have h1 : 16 + k - 16 = k := by omega
    have h2 : 24 + k - 16 = 8 + k := by omega
    have h3 : ¬ 24 + k < 16 := by omega
    have h4 : k < 8168 := by omega
    simp [-List.reduceReplicate, exampleCart, List.getD_eq_getElem?_getD, List.getElem?_append, hk, h1, h2, h3, h4]
  · intro k hk
    simp [-List.reduceReplicate, exampleCart, List.getD_eq_getElem?_getD, List.getElem?_append, hk]
  · intro i hi
    simp [-List.reduceReplicate, State.ntByte, exampleState, Memory.read?_writeAll, hi]
  · decide

/-- NmiOnlyFromRender: RENDER with bit 7 set, and another operation. -/
theorem witness_NmiOnlyFromRender :
    (∃ t, exec .render { demo anyRead with ctrl := 0x80 } = .next t) ∧ ∃ t, exec .ackview (demo anyRead) = .next t :=
  ⟨⟨_, rfl⟩, _, rfl⟩

/-- Whether an operation that completes changes a field. -/
def changes {α : Type} [DecidableEq α] (i : Instr) (s : State) (f : State → α) : Bool :=
  match exec i s with
  | .next t => decide (f t ≠ f s)
  | .fault _ => false
  | .refused _ => false

/-- Each clause of WritersOfEachField but the framebuffer's, and of VblankWriters: an operation that does change the field. -/
theorem witness_WritersOfEachField :
    let s := { demo anyRead with vblank := true, v := 0x2000, ntDirty := true }
    let s' := { s with ntDirty := false, v := 0x3F00 }
    changes (.wrCtrl (at_ .cpu 0x2000) 0x80) s State.ctrl && changes (.wrMask (at_ .cpu 0x2001) 0x1E) s State.mask &&
    changes (.wrOamaddr (at_ .cpu 0x2003) 1) s State.oamAddr && changes (.wrScrollX (at_ .cpu 0x2005) 1) s State.scrollX &&
    changes (.wrScrollY (at_ .cpu 0x2005) 1) s State.scrollY && changes (.wrAddrHi (at_ .cpu 0x2006) 1) s State.t &&
    changes (.rdData (at_ .cpu 0x2007)) s State.v && changes .ackview s State.ntDirty &&
    changes (.wrData (at_ .cpu 0x2007) 1) s' State.ntDirty && changes (.wrRam (at_ .cpu 0) 1) s State.ram &&
    changes (.wrData (at_ .cpu 0x2007) 1) s State.nt && changes (.wrData (at_ .cpu 0x2007) 1) s' State.pal &&
    changes (.wrOamdata (at_ .cpu 0x2004) 1) s State.oam && changes (.insert (header 0 0 0)) s State.cart &&
    changes (.rdStatus (at_ .cpu 0x2002)) s State.vblank && changes .reset s State.vblank = true := by
  decide

/-- The step clause of WritersOfEachField: a data port write changes the nametable or the palette store, and so does RESET. -/
theorem witness_WritersByStep :
    (∃ t, step { demo (.write .cpu 0x3FFF 0x01) with v := 0x2000 } = .next t ∧ (t.nt ≠ [] ∨ t.pal ≠ [])) ∧
    (∃ t, step { demo (.write .cpu 0x2007 0x01) with v := 0x3F00 } = .next t ∧ (t.nt ≠ [] ∨ t.pal ≠ [])) ∧
    ∃ t, step { demo (.host 0 []) with pal := [(1, 0x2A)] } = .next t ∧ (t.nt ≠ [] ∨ t.pal ≠ [(1, 0x2A)]) :=
  ⟨⟨_, rfl, by decide⟩, ⟨_, rfl, by decide⟩, _, rfl, by decide⟩

/-- Two pictures of one colour each, of different colours, differ. -/
theorem blank_ne (n : Nat) (hn : 0 < n) : Vector.replicate n (0x00 : Byte) ≠ Vector.replicate n 0x01 := by
  intro e
  have := congrArg (fun v : Vector Byte n => v[0]?) e
  simp [hn] at this

/-- The framebuffer's clause, with any cartridge c: RENDER changes the picture of one of two states. -/
theorem render_changes (c : NesRom) (s : State) (hc : s.cart = some c) :
    ∃ s t : State, exec .render s = .next t ∧ Instr.render ≠ .reset ∧ t.fb ≠ s.fb := by
  have step (f : Framebuffer) :
      ∃ t, exec .render { s with fb := f } = .next t ∧ t.fb = renderFb c s (patAddrs.map (fun a => c.chr.getD a.toNat 0)) := by
    refine ⟨renderFrame c { s with fb := f }, ?_, ?_⟩
    · show withCart _ (fun c => .next (renderFrame c _)) = _
      exact withCart_some (s := { s with fb := f }) hc _
    · rw [renderFrame_eq]
      exact renderFb_of_fb ..
  obtain ⟨t, h, ht⟩ := step (Vector.replicate fbSize 0x00)
  obtain ⟨t', h', ht'⟩ := step (Vector.replicate fbSize 0x01)
  by_cases e : t.fb = Vector.replicate fbSize 0x00
  · exact ⟨_, t', h', by decide, fun e' => blank_ne fbSize (by decide) (e.symm.trans ((ht.trans ht'.symm).trans e'))⟩
  · exact ⟨_, t, h, by decide, e⟩

/-- The framebuffer's clause of WritersOfEachField. -/
theorem witness_WritersOfFramebuffer : ∃ s t : State, exec .render s = .next t ∧ Instr.render ≠ .reset ∧ t.fb ≠ s.fb :=
  render_changes exampleCart exampleState rfl

end Sys2Proof.Tests
end

section
/-! PROOFS, family 00_scope. The operations that stand without a cartridge (R363), and the trace as an append-only record (R9, R45). -/

namespace Sys2Proof.Machine

/-! Operations without a cartridge. -/

/-- What INSERT can do: it puts a cartridge in, or it logs one format error (R140, R325). -/
theorem execInsert_cases (image : List Byte) (s : State) :
    (∃ c, execInsert image s = .next { s with cart := some c }) ∨
      ∃ kind info, execInsert image s = .next (s.failFormat kind info) := by
  unfold execInsert
  cases parseImage image with
  | rom c => exact .inl ⟨c, rfl⟩
  | error kind info => exact .inr ⟨kind, info, rfl⟩

/-- Every meaning but RESET's and INSERT's goes through the cartridge guard. -/
theorem exec_refused_of_no_cart {s : State} (hc : s.cart = none) {i : Instr} (hr : i ≠ .reset) (hi : ∀ img, i ≠ .insert img) :
    exec i s = .refused .noCartridge := by
  cases i with
  | reset => exact absurd rfl hr
  | insert img => exact absurd rfl (hi img)
  | _ => exact withCart_none hc _

/-- Settles O13: the cartridge guard refuses, and the two operations without it always answer. -/
theorem noCartridgeRefusesAllButResetAndInsert : Obligations.NoCartridgeRefusesAllButResetAndInsert := by
  intro s hc
  refine ⟨fun i hr hi => exec_refused_of_no_cart hc hr hi, ⟨_, rfl⟩, fun img => ?_⟩
  obtain ⟨c, h⟩ | ⟨kind, info, h⟩ := execInsert_cases img s
  · exact ⟨_, h⟩
  · exact ⟨_, h⟩

/-! The trace of an operation's end state. -/

/-- If the outcome is a next state, its trace begins with the trace of `s` (R9, R45). -/
def ExtendsTrace (s : State) (r : Result) : Prop := ∀ t, r = .next t → s.trace <+: t.trace

namespace ExtendsTrace

variable {s : State}

theorem next {t : State} (h : s.trace <+: t.trace) : ExtendsTrace s (.next t) := by
  rintro _ ⟨⟩
  exact h

/-- The replies are not the trace: a read's answer extends the trace as its rule does. -/
theorem answer {r : Byte × State} (h : s.trace <+: r.2.trace) : ExtendsTrace s (answer r) := next h

theorem withCart {f : NesRom → Result} (h : ∀ c, ExtendsTrace s (f c)) : ExtendsTrace s (withCart s f) := by
  intro t ht
  obtain ⟨c, -, hf⟩ := withCart_next ht
  exact h c t hf

end ExtendsTrace

theorem State.emit_extends (s : State) (e : Event) : s.trace <+: (s.emit e).trace := List.prefix_append _ _

theorem romRead_extends (region : List Byte) (k : Nat) (x : Access) (s : State) : s.trace <+: (romRead region k x s).2.trace := by
  rw [romRead_state]
  exact List.prefix_append _ _

theorem vramRead_extends (c : NesRom) (p : PAddr) (s : State) : s.trace <+: (vramRead c p s).2.trace := by
  obtain ⟨es, -, h⟩ := vramRead_state c p s
  rw [h]
  exact List.prefix_append _ _

theorem vramWrite_extends (c : NesRom) (p : PAddr) (d : Byte) (s : State) : s.trace <+: (vramWrite c p d s).trace := by
  obtain ⟨i, h⟩ | h | ⟨e, h⟩ := vramWrite_cases c p d s <;> rw [h]
  · exact List.prefix_rfl
  · exact List.prefix_rfl
  · exact s.emit_extends e

theorem busReads_extends (c : NesRom) (o : Origin) (as : List Addr) (s : State) : s.trace <+: (busReads c o as s).2.trace := by
  obtain ⟨w, vb, v, n, es, -, h⟩ := busReads_state c s o as
  rw [h]
  exact List.prefix_append _ _

theorem renderFrame_extends (c : NesRom) (s : State) : s.trace <+: (renderFrame c s).trace := by
  rw [renderFrame_eq, List.append_assoc]
  exact List.prefix_append _ _

theorem execInsert_extends (image : List Byte) (s : State) : ExtendsTrace s (execInsert image s) := by
  obtain ⟨c, h⟩ | ⟨kind, info, h⟩ := execInsert_cases image s <;> rw [h]
  · exact .next List.prefix_rfl
  · exact .next (s.emit_extends _)

/-- No operation removes or changes an event: it leaves the trace alone, emits one event, or extends the trace by what its bus or
data-port accesses log. -/
theorem exec_extends (i : Instr) (s : State) : ExtendsTrace s (exec i s) := by
  cases i with
  | reset => exact .next List.prefix_rfl
  | insert image => exact execInsert_extends image s
  | rdRam | rdCtrl | rdMask | rdStatus | rdOamaddr | rdOamdata | rdScroll | rdAddr | rdApustat | rdJoy1 | rdJoy2
  | vrdPal | vrdNtm | vrdNt => exact .withCart fun _ => .answer List.prefix_rfl
  | prdChr | rdPrg | vrdPat => exact .withCart fun _ => .answer (romRead_extends _ _ _ s)
  | rdOpen | rdCartlo => exact .withCart fun _ => .answer (s.emit_extends _)
  | rdData => exact .withCart fun c => .answer (vramRead_extends c _ s)
  | wrRam | wrCtrl | wrMask | wrStatus | wrOamaddr | wrOamdata | wrScrollX | wrScrollY | wrAddrHi | wrAddrLo
  | vwrPal | vwrNtm | vwrNt | ackview => exact .withCart fun _ => .next List.prefix_rfl
  | pwrChr | wrApu | wrJoy1 | wrJoy2 | wrOpen | wrCartlo | wrPrg | vwrPat => exact .withCart fun _ => .next (s.emit_extends _)
  | wrData => exact .withCart fun c => .next (vramWrite_extends c _ _ s)
  | wrOamdma _ d => exact .withCart fun c => .next (busReads_extends c .cpu (dmaSources d) s)
  | render => exact .withCart fun c => .next (renderFrame_extends c s)

/-- Settles O56: a step runs one operation, and every operation extends the trace. -/
theorem traceOnlyGrows : Obligations.TraceOnlyGrows := by
  intro s t h
  obtain ⟨r, rest, i, -, -, -, hi⟩ := step_next h
  obtain ⟨es, he⟩ := exec_extends i _ t hi
  exact ⟨es, he.symm⟩

end Sys2Proof.Machine
end

section
/-! PROOFS, family 10_state. What one operation can do to the state, said once (Effect, exec_effect), and from it the invariant, the
write latch's rule and the writers of each field (R20 to R51). -/

namespace Sys2Proof

/-! Classes of operations. -/

/-- The operations that change no field of `S` but the trace: the reads without a side effect and the dropped writes. -/
def Instr.onlyLogs : Instr → Bool
  | .rdRam _ | .prdChr _ | .rdCtrl _ | .rdMask _ | .rdOamaddr _ | .rdOamdata _ | .rdScroll _ | .rdAddr _ | .rdApustat _
  | .rdJoy1 _ | .rdJoy2 _ | .rdOpen _ | .rdCartlo _ | .rdPrg _ | .vrdPal _ | .vrdNtm _ | .vrdNt _ | .vrdPat _
  | .pwrChr _ _ | .wrStatus _ _ | .wrApu _ _ | .wrJoy1 _ _ | .wrJoy2 _ _ | .wrOpen _ _ | .wrCartlo _ _ | .wrPrg _ _
  | .vwrPat _ _ => true
  | _ => false

/-- The operations that may change the nametable or the palette store (R39, R40). -/
def Instr.writesStores : Instr → Bool
  | .wrData _ _ | .vwrPal _ _ | .vwrNtm _ _ | .vwrNt _ _ | .reset => true
  | _ => false

/-- The write latch after an operation other than an OAM-DMA, from the latch before it (R36, R202, R220). -/
def Instr.latchAfter (w : Bool) : Instr → Bool
  | .rdStatus _ | .wrScrollY _ _ | .wrAddrLo _ _ | .reset => false
  | .wrScrollX _ _ | .wrAddrHi _ _ => true
  | _ => w

theorem Instr.latchAfter_of_onlyLogs {i : Instr} (h : i.onlyLogs = true) (w : Bool) : i.latchAfter w = w := by
  cases i with
  | rdStatus | wrScrollX | wrScrollY | wrAddrHi | wrAddrLo | reset => cases h
  | _ => rfl

theorem Instr.writesStores_of_onlyLogs {i : Instr} (h : i.onlyLogs = true) : i.writesStores = false := by
  cases i with
  | wrData | vwrPal | vwrNtm | vwrNt | reset => cases h
  | _ => rfl

/-! The operation a port or a bus transaction selects. -/

theorem latchAfter_portInstr_read (l w : Bool) {n : Nat} (hn : n < 8) (x : Access) (d : Byte) :
    (portInstr l false n x d).latchAfter w = if n = 2 then false else w := by
  interval_cases n <;> rfl

/-- The latch selects the form of a two-write port, so either form toggles it (R114, R220). -/
theorem latchAfter_portInstr_write (w : Bool) {n : Nat} (hn : n < 8) (x : Access) (d : Byte) :
    (portInstr w true n x d).latchAfter w = if n = 5 ∨ n = 6 then !w else w := by
  interval_cases n <;> cases w <;> rfl

theorem writesStores_portInstr (l w : Bool) {n : Nat} (hn : n < 8) (x : Access) (d : Byte) :
    (portInstr l w n x d).writesStores = (w && decide (n = 7)) := by
  interval_cases n <;> cases w <;> cases l <;> rfl

theorem portInstr_ne_wrOamdma (l w : Bool) {n : Nat} (hn : n < 8) (x y : Access) (d e : Byte) :
    portInstr l w n x d ≠ .wrOamdma y e := by
  interval_cases n <;> cases w <;> cases l <;> nofun

/-- The operation a bus transaction selects: a port's in the register window; outside it an internal RAM write, an OAM-DMA, or an
operation that only logs. -/
theorem busInstr_cases (l w : Bool) (x : Access) (d : Byte) :
    (0x2000 ≤ x.physical.toNat ∧ x.physical.toNat < 0x4000 ∧
      busInstr l w x d = portInstr l w (x.physical.toNat % 8) x d) ∨
    ¬(0x2000 ≤ x.physical.toNat ∧ x.physical.toNat < 0x4000) ∧
      ((busInstr l w x d).onlyLogs = true ∨ busInstr l w x d = .wrRam x d ∨
        (x.physical.toNat = 0x4014 ∧ w = true ∧ busInstr l w x d = .wrOamdma x d)) := by
  by_cases h1 : x.physical.toNat < 0x2000
  · refine .inr ⟨by omega, ?_⟩
    cases ho : x.origin <;> cases w <;> simp [busInstr, h1, ho, Instr.onlyLogs]
  by_cases h2 : x.physical.toNat < 0x4000
  · exact .inl ⟨by omega, h2, by simp [busInstr, h1, h2]⟩
  refine .inr ⟨by omega, ?_⟩
  by_cases h3 : x.physical.toNat = 0x4014 ∧ w = true
  · exact .inr (.inr ⟨h3.1, h3.2, by simp [busInstr, h3]⟩)
  refine .inl ?_
  simp only [busInstr, h1, h2, h3, if_false]
  split_ifs <;> rfl

/-- Only a read in the register window is a status read. -/
theorem busInstr_eq_rdStatus {l w : Bool} {x y : Access} {d : Byte} (h : busInstr l w x d = .rdStatus y) :
    0x2000 ≤ x.physical.toNat ∧ x.physical.toNat < 0x4000 := by
  obtain ⟨h1, h2, -⟩ | ⟨-, h' | h' | ⟨-, -, h'⟩⟩ := busInstr_cases l w x d
  · exact ⟨h1, h2⟩
  · rw [h] at h'
    cases h'
  · cases h'.symm.trans h
  · cases h'.symm.trans h

/-- Only a write to `0x4014` is an OAM-DMA (R65, R178). -/
theorem busInstr_eq_wrOamdma {l w : Bool} {x y : Access} {d e : Byte} (h : busInstr l w x d = .wrOamdma y e) :
    x.physical.toNat = 0x4014 ∧ w = true := by
  obtain ⟨-, -, h'⟩ | ⟨-, h' | h' | ⟨ha, hw, -⟩⟩ := busInstr_cases l w x d
  · exact absurd (h'.symm.trans h) (portInstr_ne_wrOamdma l w (Nat.mod_lt _ (by decide)) x y d e)
  · rw [h] at h'
    cases h'
  · cases h'.symm.trans h
  · exact ⟨ha, hw⟩

/-- Only a write to register index 7 may change the nametable or the palette store (R219). -/
theorem dataPort_of_writesStores {l w : Bool} {x : Access} {d : Byte} (h : (busInstr l w x d).writesStores = true) :
    w = true ∧ 0x2000 ≤ x.physical.toNat ∧ x.physical.toNat < 0x4000 ∧ x.physical.toNat % 8 = 7 := by
  obtain ⟨h1, h2, h'⟩ | ⟨-, h' | h' | ⟨-, -, h'⟩⟩ := busInstr_cases l w x d
  · rw [h', writesStores_portInstr l w (Nat.mod_lt _ (by decide))] at h
    obtain ⟨hw, h7⟩ := (Bool.and_eq_true _ _).mp h
    exact ⟨hw, h1, h2, of_decide_eq_true h7⟩
  · rw [Instr.writesStores_of_onlyLogs h'] at h
    cases h
  · rw [h'] at h
    cases h
  · rw [h'] at h
    cases h

end Sys2Proof

namespace Sys2Proof.Machine

/-- A data-port write changes the two stores and the trace alone (R241). -/
theorem vramWrite_frame (c : NesRom) (p : PAddr) (d : Byte) (s : State) :
    ∃ nt pal trace, vramWrite c p d s = { s with nt := nt, pal := pal, trace := trace } := by
  obtain ⟨i, h⟩ | h | ⟨e, h⟩ := vramWrite_cases c p d s <;> exact ⟨_, _, _, h⟩

/-! The effect of an operation. -/

/-- Where an outcome is a next state, that state has the property. -/
def Ends (P : State → Prop) (r : Result) : Prop := ∀ t, r = .next t → P t

theorem Ends.next {P : State → Prop} {t : State} (h : P t) : Ends P (.next t) := by
  rintro _ ⟨⟩
  exact h

theorem Ends.withCart {P : State → Prop} {s : State} {f : NesRom → Result} (h : ∀ c, Ends P (f c)) : Ends P (withCart s f) := by
  intro t ht
  obtain ⟨c, -, hf⟩ := withCart_next ht
  exact h c t hf

/-- What an operation that completes can make of the state `s`: which fields it writes, and with what where the invariant, the latch
or `S.vblank` depend on it. The draw index, the events, the replies, the picture and the computed register values are left open. -/
inductive Effect (s : State) : Instr → State → Prop where
  | quiet {i} (h : i.onlyLogs = true) (draws trace replies) :
      Effect s i { s with draws := draws, trace := trace, replies := replies }
  | rdStatus (x replies) : Effect s (.rdStatus x) { s with w := false, vblank := false, replies := replies }
  | rdData (x v trace replies) : Effect s (.rdData x) { s with v := v, trace := trace, replies := replies }
  | wrRam (x d) : Effect s (.wrRam x d) (s.writeRam (x.physical.toNat % 0x0800) d)
  | wrCtrl (x d t) : Effect s (.wrCtrl x d) { s with ctrl := d, t := t }
  | wrMask (x d) : Effect s (.wrMask x d) { s with mask := d }
  | wrOamaddr (x d) : Effect s (.wrOamaddr x d) { s with oamAddr := d }
  | wrOamdata (x d oamAddr) : Effect s (.wrOamdata x d) { s.writeOam s.oamAddr.toNat d with oamAddr := oamAddr }
  | wrScrollX (x d t) : Effect s (.wrScrollX x d) { s with scrollX := d, t := t, w := true }
  | wrScrollY (x d t) : Effect s (.wrScrollY x d) { s with scrollY := d, t := t, w := false }
  | wrAddrHi (x d t) : Effect s (.wrAddrHi x d) { s with t := t, w := true }
  | wrAddrLo (x d t v) : Effect s (.wrAddrLo x d) { s with t := t, v := v, w := false }
  | wrData (x d c p v) : Effect s (.wrData x d) { vramWrite c p d s with ntDirty := true, v := v }
  | wrOamdma (x d c) : Effect s (.wrOamdma x d)
      { (busReads c .cpu (dmaSources d) s).2 with oam := s.oam.writeAll 0 (busReads c .cpu (dmaSources d) s).1 }
  | vwrPal (p d) : Effect s (.vwrPal p d) (s.writePal (palIndex p) d)
  | vwrNtm (p d arr) : Effect s (.vwrNtm p d) (s.writeNt (ntIndex arr (p - 0x1000)) d)
  | vwrNt (p d arr) : Effect s (.vwrNt p d) (s.writeNt (ntIndex arr p) d)
  | reset : Effect s .reset
      { State.reset with
        cart := s.cart, trace := s.trace, powerOn := s.draws, draws := s.draws + 1, replies := s.replies, requests := s.requests }
  | inserted {image c} (h : parseImage image = .rom c) : Effect s (.insert image) { s with cart := some c }
  | notInserted (image trace) : Effect s (.insert image) { s with trace := trace }
  | render (fb trace) : Effect s .render { s with vblank := true, fb := fb, trace := trace }
  | ackview : Effect s .ackview s.clearDirty

theorem execInsert_effect (image : List Byte) (s : State) : Ends (Effect s (.insert image)) (execInsert image s) := by
  unfold execInsert
  cases h : parseImage image with
  | rom c => exact .next (.inserted h)
  | error kind info => exact .next (.notInserted ..)

theorem romRead_effect {i : Instr} (hi : i.onlyLogs = true) (region : List Byte) (k : Nat) (x : Access) (s : State) :
    Ends (Effect s i) (answer (romRead region k x s)) := by
  refine .next ?_
  rw [romRead_state]
  exact .quiet hi ..

theorem rdData_effect (x : Access) (c : NesRom) (s : State) : Ends (Effect s (.rdData x)) (answer (ruleRdData c s)) := by
  obtain ⟨es, -, h⟩ := vramRead_state c s.dataAddr s
  refine .next ?_
  simp only [ruleRdData, State.advanceV, h]
  exact .rdData ..

theorem wrData_effect (x : Access) (d : Byte) (c : NesRom) (s : State) :
    Effect s (.wrData x d) (vramWrite c s.dataAddr d s).markDirty.advanceV := .wrData ..

theorem wrOamdma_effect (x : Access) (d : Byte) (c : NesRom) (s : State) : Effect s (.wrOamdma x d)
    { (busReads c .cpu (dmaSources d) s).2 with
      oam := (busReads c .cpu (dmaSources d) s).2.oam.writeAll 0 (busReads c .cpu (dmaSources d) s).1 } := by
  have h : (busReads c .cpu (dmaSources d) s).2.oam = s.oam := by
    obtain ⟨w, vb, v, n, es, -, h⟩ := busReads_state c s .cpu (dmaSources d)
    rw [h]
  rw [h]
  exact .wrOamdma ..

/-- Every operation that completes has one of the effects listed. -/
theorem exec_effect (i : Instr) (s : State) : Ends (Effect s i) (exec i s) := by
  cases i with
  | prdChr | rdPrg | vrdPat => exact .withCart fun _ => romRead_effect rfl _ _ _ s
  | rdRam | rdCtrl | rdMask | rdOamaddr | rdOamdata | rdScroll | rdAddr | rdApustat | rdJoy1 | rdJoy2 | rdOpen | rdCartlo
  | vrdPal | vrdNtm | vrdNt | pwrChr | wrStatus | wrApu | wrJoy1 | wrJoy2 | wrOpen | wrCartlo | wrPrg | vwrPat =>
    exact .withCart fun _ => .next (.quiet rfl ..)
  | rdStatus => exact .withCart fun _ => .next (.rdStatus ..)
  | rdData => exact .withCart fun c => rdData_effect _ c s
  | wrRam => exact .withCart fun _ => .next (.wrRam ..)
  | wrCtrl => exact .withCart fun _ => .next (.wrCtrl ..)
  | wrMask => exact .withCart fun _ => .next (.wrMask ..)
  | wrOamaddr => exact .withCart fun _ => .next (.wrOamaddr ..)
  | wrOamdata => exact .withCart fun _ => .next (.wrOamdata ..)
  | wrScrollX => exact .withCart fun _ => .next (.wrScrollX ..)
  | wrScrollY => exact .withCart fun _ => .next (.wrScrollY ..)
  | wrAddrHi => exact .withCart fun _ => .next (.wrAddrHi ..)
  | wrAddrLo => exact .withCart fun _ => .next (.wrAddrLo ..)
  | wrData => exact .withCart fun c => .next (wrData_effect _ _ c s)
  | wrOamdma => exact .withCart fun c => .next (wrOamdma_effect _ _ c s)
  | vwrPal => exact .withCart fun _ => .next (.vwrPal ..)
  | vwrNtm => exact .withCart fun _ => .next (.vwrNtm ..)
  | vwrNt => exact .withCart fun _ => .next (.vwrNt ..)
  | reset => exact .next .reset
  | insert image => exact execInsert_effect image s
  | render => exact .withCart fun _ => .next (.render ..)
  | ackview => exact .withCart fun _ => .next .ackview

/-! The invariant (R38 to R41, R43, R140, R255). -/

theorem imgSlice_length (img : List Byte) {i n : Nat} (h : i + n ≤ img.length) : (imgSlice img i n).length = n := by
  simp only [imgSlice, List.length_take, List.length_drop]
  omega

theorem imgRom_header_getD (img : List Byte) {k : Nat} (h : k < 16) : (imgRom img).header.getD k 0 = imgByte img k := by
  simp [imgRom, imgSlice, imgByte, List.getD_eq_getElem?_getD, h]

/-- What an image that parses to a cartridge has passed, and that the cartridge is its slices (R140, R336). -/
theorem parseImage_rom {img : List Byte} {c : NesRom} (h : parseImage img = .rom c) :
    c = imgRom img ∧ img.take 4 = headerMagic ∧ imgNeed img ≤ img.length ∧
      headerMapperId (imgByte img 6) (imgByte img 7) ∈ Config.supportedMappers := by
  simp only [parseImage] at h
  split_ifs at h with hmagic hheader hneed hmapper
  cases h
  exact ⟨rfl, by simpa using (not_or.mp hmagic).2, Nat.not_lt.mp hneed, hmapper⟩

/-- A cartridge that INSERT makes agrees with its header. -/
theorem cartOk_of_parseImage {img : List Byte} {c : NesRom} (h : parseImage img = .rom c) : Safety.cartOk c = true := by
  obtain ⟨rfl, hmagic, hneed, hmapper⟩ := parseImage_rom h
  simp only [imgNeed, prgOffset] at hneed
  have hheader : (imgRom img).header.length = 16 := imgSlice_length img (by omega)
  have hprg : (imgRom img).prg.length = 16384 * (imgByte img 4).toNat := by
    rw [imgRom, imgSlice_length img (by simp only [prgOffset]; omega), prgLen, Nat.mul_comm]
  have hchr : (imgRom img).chr.length = 8192 * (imgByte img 5).toNat := by
    rw [imgRom, imgSlice_length img (by simp only [prgOffset]; omega), chrLen, Nat.mul_comm]
  have htake : (imgRom img).header.take 4 = headerMagic := by simp [imgRom, imgSlice, List.take_take, hmagic]
  simp only [Safety.cartOk, imgRom_header_getD, Nat.reduceLT, Bool.and_eq_true, decide_eq_true_eq, and_assoc]
  refine ⟨hheader, hprg, hchr, htake, rfl, rfl, rfl, rfl, hmapper, ?_⟩
  by_cases ht : headerHasTrainer (imgByte img 6) = true
  · have hlen : 16 + 512 ≤ img.length := by
      simp only [trainerLen, ht, if_true] at hneed
      omega
    simp [imgRom, ht, imgSlice_length img hlen]
  · simp [imgRom, ht]

section Invariant

variable {s : State}

open Safety

/-- The invariant speaks of the four memories and the cartridge alone. -/
theorem inv_of_frame (h : Inv s) {t : State} (hram : t.ram = s.ram) (hnt : t.nt = s.nt) (hpal : t.pal = s.pal)
    (hoam : t.oam = s.oam) (hcart : t.cart = s.cart) : Inv t where
  ram := hram ▸ h.ram
  nt := hnt ▸ h.nt
  pal := hpal ▸ h.pal
  oam := hoam ▸ h.oam
  folds := hpal ▸ h.folds
  cart := hcart ▸ h.cart

theorem inv_writeRam (h : Inv s) {i : Nat} (d : Byte) (hi : i < 2048) : Inv (s.writeRam i d) :=
  { h with ram := Memory.wf_write h.ram hi }

theorem inv_writeNt (h : Inv s) {i : Nat} (d : Byte) (hi : i < 2048) : Inv (s.writeNt i d) :=
  { h with nt := Memory.wf_write h.nt hi }

/-- A palette write goes to no folded cell (R255). -/
theorem inv_writePal (h : Inv s) (p : PAddr) (d : Byte) : Inv (s.writePal (palIndex p) d) where
  ram := h.ram
  nt := h.nt
  pal := Memory.wf_write h.pal (palIndex_lt p)
  oam := h.oam
  folds i hi := by
    have hne : i ≠ palIndex p := by
      obtain ⟨h1, h2, h3, h4⟩ := palIndex_folds p
      rintro rfl
      simp [paletteFolds, h1, h2, h3, h4] at hi
    exact (Memory.read?_write_other s.pal d hne).trans (h.folds i hi)
  cart := h.cart

theorem inv_writeOam (h : Inv s) {i : Nat} (d : Byte) (hi : i < 256) : Inv (s.writeOam i d) :=
  { h with oam := Memory.wf_write h.oam hi }

theorem inv_writeAllOam (h : Inv s) {bs : List Byte} (hl : bs.length ≤ 256) : Inv { s with oam := s.oam.writeAll 0 bs } :=
  { h with oam := Memory.wf_writeAll h.oam (by omega) }

/-- RESET forgets what was written to the four memories, and an empty store is canonical. -/
theorem inv_of_empty {t : State} (hram : t.ram = []) (hnt : t.nt = []) (hpal : t.pal = []) (hoam : t.oam = [])
    (hcart : ∀ c, t.cart = some c → cartOk c = true) : Inv t where
  ram := hram ▸ rfl
  nt := hnt ▸ rfl
  pal := hpal ▸ rfl
  oam := hoam ▸ rfl
  folds _ _ := hpal ▸ rfl
  cart := hcart

/-- The mirror of the nametables ends below the palette, so its index is a nametable's (R252). -/
theorem ntIndex_mirror_lt (arr : Arrangement) {p : PAddr} (h : 0x3000 ≤ p.toNat) : ntIndex arr (p - 0x1000) < 2048 := by
  refine ntIndex_lt arr _ ?_
  have := p.isLt
  bv_omega

theorem inv_vramWrite (h : Inv s) (c : NesRom) (p : PAddr) (d : Byte) : Inv (vramWrite c p d s) := by
  rcases vram_regions p with hp | ⟨hp, hp'⟩ | ⟨hp, hp'⟩ | hp
  · rw [vramWrite_pat c d s hp]
    exact inv_of_frame h rfl rfl rfl rfl rfl
  · rw [vramWrite_nt c d s hp hp']
    exact inv_writeNt h d (ntIndex_lt _ p hp')
  · rw [vramWrite_ntm c d s hp hp']
    exact inv_writeNt h d (ntIndex_mirror_lt _ hp)
  · rw [vramWrite_pal c d s hp]
    exact inv_writePal h p d

theorem inv_of_effect (h : Inv s) {i : Instr} {t : State} (hw : i.wellFormed = true) (he : Effect s i t) : Inv t := by
  cases he with
  | quiet | rdStatus | rdData | wrCtrl | wrMask | wrOamaddr | wrScrollX | wrScrollY | wrAddrHi | wrAddrLo | notInserted
  | render | ackview => exact inv_of_frame h rfl rfl rfl rfl rfl
  | wrRam x d => exact inv_writeRam h d (Nat.mod_lt _ (by decide))
  | wrOamdata x d => exact inv_of_frame (inv_writeOam h d s.oamAddr.isLt) rfl rfl rfl rfl rfl
  | wrData x d c p => exact inv_of_frame (inv_vramWrite h c p d) rfl rfl rfl rfl rfl
  | wrOamdma x d c =>
    obtain ⟨w, vb, v, n, es, -, hs⟩ := busReads_state c s .cpu (dmaSources d)
    rw [hs]
    exact inv_of_frame (inv_writeAllOam h (by simp [dmaSources])) rfl rfl rfl rfl rfl
  | vwrPal p d => exact inv_writePal h p d
  | vwrNtm p d arr =>
    simp only [Instr.wellFormed, PAddr.within, Bool.and_eq_true, decide_eq_true_eq] at hw
    exact inv_writeNt h d (ntIndex_mirror_lt arr hw.1)
  | vwrNt p d arr =>
    simp only [Instr.wellFormed, PAddr.within, Bool.and_eq_true, decide_eq_true_eq] at hw
    exact inv_writeNt h d (ntIndex_lt arr p hw.2)
  | reset => exact inv_of_empty rfl rfl rfl rfl h.cart
  | inserted hp => exact { h with cart := by rintro _ ⟨⟩; exact cartOk_of_parseImage hp }

end Invariant

/-- Settles O16: a step runs one well-formed operation, and each effect an operation can have keeps the invariant. -/
theorem stepKeepsInvariant : Obligations.StepKeepsInvariant := by
  intro s t hs h
  obtain ⟨r, rest, i, -, -, hw, hi⟩ := step_next h
  have hs' : Safety.Inv { s with requests := rest } := inv_of_frame hs rfl rfl rfl rfl rfl
  exact inv_of_effect hs' hw (exec_effect i _ t hi)

/-- Settles O15: at power-on the four memories are empty and there is no cartridge. -/
theorem invariantAtReset : Obligations.InvariantAtReset := inv_of_empty rfl rfl rfl rfl nofun

/-! Steps. -/

/-- Settles O11: the key formed and decoded is the one the step forms and decodes. -/
theorem stepRunsDecodedOperation : Obligations.StepRunsDecodedOperation := by
  intro s r rest k i hr hk hd hw
  simp [step, hr, runRequest, hk, runKey, hd, hw]

/-- With a cartridge a read runs the operation its translated address selects (R170). -/
theorem step_read {s : State} {c : NesRom} (hc : s.cart = some c) (rest : List Request) (o : Origin) (a : Addr) :
    step { s with requests := .read o a :: rest } =
      exec (busInstr s.w false ⟨o, a, translate c a o⟩ 0x00) { s with requests := rest } :=
  runRequest_of_selects (by simp [selects, hc])

/-- With a cartridge a write runs the operation its translated address and the latch select (R171). -/
theorem step_write {s : State} {c : NesRom} (hc : s.cart = some c) (rest : List Request) (o : Origin) (a : Addr) (d : Byte) :
    step { s with requests := .write o a d :: rest } =
      exec (busInstr s.w true ⟨o, a, translate c a o⟩ d) { s with requests := rest } :=
  runRequest_of_selects (by simp [selects, hc])

/-- A host operation that completes is one of the four (R104, R118). -/
theorem decodeHostOp_cases {op : BitVec 4} {img : List Byte} {i : Instr} (h : decodeHostOp op img = some i) :
    (op = 0 ∧ i = .reset) ∨ i = .insert img ∨ i = .render ∨ i = .ackview := by
  simp only [decodeHostOp] at h
  split_ifs at h with h0 <;> cases h <;> simp [h0]

/-- The translation moves no address into or out of the register window, nor within it (R151). -/
theorem translate_inWindow (c : NesRom) (a : Addr) (o : Origin) (p : Nat → Prop) :
    (0x2000 ≤ (translate c a o).toNat ∧ (translate c a o).toNat < 0x4000 ∧ p (translate c a o).toNat) ↔
      (0x2000 ≤ a.toNat ∧ a.toNat < 0x4000 ∧ p a.toNat) := by
  by_cases ha : a.toNat < 0x8000
  · rw [translate_below c o (by omega)]
  · have := translate_low_iff c a o
    omega

/-- No address but `0x4014` itself is translated to `0x4014`. -/
theorem eq_of_translate_eq_4014 {c : NesRom} {a : Addr} {o : Origin} (h : (translate c a o).toNat = 0x4014) : a = 0x4014 := by
  have ha : a.toNat < 0x8000 := (translate_low_iff c a o).mp (by omega)
  rw [translate_below c o (by omega)] at h
  exact BitVec.eq_of_toNat_eq h

/-! The write latch (R36, R220). -/

/-- Every operation but an OAM-DMA leaves the latch that `latchAfter` gives. -/
theorem latch_of_effect {s t : State} {i : Instr} (h : Effect s i t) (hi : ∀ x d, i ≠ .wrOamdma x d) :
    t.w = i.latchAfter s.w := by
  cases h with
  | quiet h => exact (Instr.latchAfter_of_onlyLogs h _).symm
  | wrOamdma x d => exact absurd rfl (hi x d)
  | wrData x d c p =>
    obtain ⟨nt, pal, trace, h⟩ := vramWrite_frame c p d s
    rw [h]
    rfl
  | _ => rfl

theorem latchAfter_busInstr_read (w : Bool) (x : Access) (d : Byte) :
    (busInstr w false x d).latchAfter w =
      if 0x2000 ≤ x.physical.toNat ∧ x.physical.toNat < 0x4000 ∧ x.physical.toNat % 8 = 2 then false else w := by
  obtain ⟨h1, h2, h⟩ | ⟨hout, h | h | ⟨-, hw, -⟩⟩ := busInstr_cases w false x d
  · rw [h, latchAfter_portInstr_read w w (Nat.mod_lt _ (by decide))]
    simp [h1, h2]
  · rw [Instr.latchAfter_of_onlyLogs h, if_neg (by tauto)]
  · rw [h, if_neg (by tauto)]
    rfl
  · cases hw

theorem latchAfter_busInstr_write (w : Bool) (x : Access) (d : Byte) :
    (busInstr w true x d).latchAfter w =
      if 0x2000 ≤ x.physical.toNat ∧ x.physical.toNat < 0x4000 ∧ (x.physical.toNat % 8 = 5 ∨ x.physical.toNat % 8 = 6)
      then !w else w := by
  obtain ⟨h1, h2, h⟩ | ⟨hout, h | h | ⟨-, -, h⟩⟩ := busInstr_cases w true x d
  · rw [h, latchAfter_portInstr_write w (Nat.mod_lt _ (by decide))]
    simp [h1, h2]
  · rw [Instr.latchAfter_of_onlyLogs h, if_neg (by tauto)]
  · rw [h, if_neg (by tauto)]
    rfl
  · rw [h, if_neg (by tauto)]
    rfl

/-- Settles O40: the latch after the operation, at the address before the translation. -/
theorem writeLatchRule : Obligations.WriteLatchRule := by
  intro s t rest c hc
  refine ⟨fun o a d ha h => ?_, fun o a h => ?_, fun op img h hop => ?_⟩
  · rw [step_write hc] at h
    have hdma : ∀ x e, busInstr s.w true ⟨o, a, translate c a o⟩ d ≠ .wrOamdma x e := fun x e he =>
      ha (eq_of_translate_eq_4014 (busInstr_eq_wrOamdma he).1)
    rw [latch_of_effect (exec_effect _ _ t h) hdma, latchAfter_busInstr_write]
    simp only [translate_inWindow c a o fun n => n % 8 = 5 ∨ n % 8 = 6]
  · rw [step_read hc] at h
    have hdma : ∀ x e, busInstr s.w false ⟨o, a, translate c a o⟩ 0x00 ≠ .wrOamdma x e := fun x e he =>
      nomatch (busInstr_eq_wrOamdma he).2
    rw [latch_of_effect (exec_effect _ _ t h) hdma, latchAfter_busInstr_read]
    simp only [translate_inWindow c a o fun n => n % 8 = 2]
  · obtain ⟨r, rest', i, hr, hs, -, hi⟩ := step_next h
    cases hr
    obtain ⟨h0, -⟩ | rfl | rfl | rfl := decodeHostOp_cases hs
    · exact absurd h0 hop
    all_goals exact latch_of_effect (exec_effect _ _ t hi) nofun

/-! The writers of `S.vblank` (R31, R51). -/

theorem romRead_vblank (region : List Byte) (k : Nat) (x : Access) (s : State) :
    (romRead region k x s).2.vblank = s.vblank := by
  rw [romRead_state]

theorem busReadRow_vblank (c : NesRom) (i : Instr) (s : State) :
    (busReadRow c i s).2.vblank = s.vblank ∨ ((∃ x, i = .rdStatus x) ∧ (busReadRow c i s).2.vblank = false) := by
  cases i with
  | rdStatus x => exact .inr ⟨⟨x, rfl⟩, rfl⟩
  | rdData x =>
    obtain ⟨es, -, h⟩ := vramRead_state c s.dataAddr s
    exact .inl (by simp [busReadRow, ruleRdData, h])
  | prdChr | rdPrg => exact .inl (romRead_vblank _ _ _ s)
  | _ => exact .inl rfl

theorem busRead_vblank (c : NesRom) (a : Addr) (o : Origin) (s : State) :
    (busRead c a o s).2.vblank = s.vblank ∨
      ((busRead c a o s).2.vblank = false ∧ 0x2000 ≤ a.toNat ∧ a.toNat < 0x4000) := by
  rw [busRead_eq]
  refine (busReadRow_vblank c _ s).imp id fun ⟨⟨x, hx⟩, hv⟩ => ⟨hv, ?_⟩
  obtain ⟨hlo, hhi⟩ := busInstr_eq_rdStatus hx
  obtain ⟨hlo', hhi', -⟩ := (translate_inWindow c a o fun _ => True).mp ⟨hlo, hhi, trivial⟩
  exact ⟨hlo', hhi'⟩

/-- A sequence of bus reads can only clear the flag, by a read in the register window. -/
theorem busReads_vblank (c : NesRom) (o : Origin) (as : List Addr) (s : State) :
    (busReads c o as s).2.vblank = s.vblank ∨
      ((busReads c o as s).2.vblank = false ∧ ∃ a ∈ as, 0x2000 ≤ a.toNat ∧ a.toNat < 0x4000) := by
  induction as generalizing s with
  | nil => exact .inl rfl
  | cons a as ih =>
    obtain h | ⟨h, b, hb, hw⟩ := ih (busRead c a o s).2
    · obtain h' | ⟨h', hw⟩ := busRead_vblank c a o s
      · exact .inl (h.trans h')
      · exact .inr ⟨h.trans h', a, List.mem_cons_self, hw⟩
    · exact .inr ⟨h, b, List.mem_cons_of_mem a hb, hw⟩

/-- The sources of an OAM-DMA lie in its page (R110). -/
theorem page_of_mem_dmaSources {d : Byte} {a : Addr} (h : a ∈ dmaSources d) : a.toNat / 256 = d.toNat := by
  simp only [dmaSources, List.mem_map] at h
  obtain ⟨n, -, rfl⟩ := h
  have := (BitVec.ofNat 8 n).isLt
  rw [dmaSource, append_toNat]
  omega

/-- Settles O60: an effect writes the flag outright, or reads a page by the bus. -/
theorem vblankWriters : Obligations.VblankWriters := by
  intro i s t h hne
  cases exec_effect i s t h with
  | render => exact .inl ⟨rfl, rfl⟩
  | rdStatus x => exact .inr (.inl ⟨⟨x, rfl⟩, rfl⟩)
  | wrOamdma x d c =>
    obtain h | ⟨h, a, ha, h1, h2⟩ := busReads_vblank c .cpu (dmaSources d) s
    · exact absurd h hne
    · have := page_of_mem_dmaSources ha
      exact .inr (.inr (.inl ⟨⟨x, d, rfl, by omega, by omega⟩, h⟩))
  | reset => exact .inr (.inr (.inr ⟨rfl, rfl⟩))
  | wrData x d c p =>
    obtain ⟨nt, pal, trace, h⟩ := vramWrite_frame c p d s
    simp [h] at hne
  | _ => exact absurd rfl hne

/-! The writers of the other fields. -/

theorem stores_of_effect {s t : State} {i : Instr} (h : Effect s i t) (hi : i.writesStores = false) :
    t.nt = s.nt ∧ t.pal = s.pal := by
  cases h with
  | wrData | vwrPal | vwrNtm | vwrNt | reset => cases hi
  | wrOamdma x d c =>
    obtain ⟨w, vb, v, n, es, -, h⟩ := busReads_state c s .cpu (dmaSources d)
    simp [h]
  | _ => exact ⟨rfl, rfl⟩

/-- The given operations that may change the nametable or the palette store: RESET and writes to the data port (R85, R100). -/
theorem request_of_writesStores {s : State} {r : Request} {i : Instr} (h : selects s r = some i) (hi : i.writesStores = true) :
    (∃ img, r = .host 0 img) ∨
      ∃ o a d, r = .write o a d ∧ 0x2000 ≤ a.toNat ∧ a.toNat < 0x4000 ∧ a.toNat % 8 = 7 := by
  cases r with
  | host op img =>
    obtain ⟨rfl, -⟩ | rfl | rfl | rfl := decodeHostOp_cases h
    · exact .inl ⟨img, rfl⟩
    all_goals cases hi
  | read o a =>
    obtain ⟨c, -, rfl⟩ := Option.map_eq_some_iff.mp h
    cases (dataPort_of_writesStores hi).1
  | write o a d =>
    obtain ⟨c, -, rfl⟩ := Option.map_eq_some_iff.mp h
    obtain ⟨-, hport⟩ := dataPort_of_writesStores hi
    exact .inr ⟨o, a, d, rfl, (translate_inWindow c a o fun n => n % 8 = 7).mp hport⟩

/-- Settles O59: the cases of an operation's effect, and for the step clause the requests that select a store's writer. -/
theorem writersOfEachField : Obligations.WritersOfEachField := by
  refine ⟨?_, fun s t h hne => ?_, fun i s t h hi => ?_⟩
  · rintro s t ⟨⟩
    exact ⟨rfl, rfl⟩
  · obtain ⟨r, rest, i, hr, hs, -, hi⟩ := step_next h
    cases hw : i.writesStores with
    | false =>
      obtain ⟨hnt, hpal⟩ := stores_of_effect (exec_effect i _ t hi) hw
      exact absurd hne (by simp [hnt, hpal])
    | true =>
      obtain ⟨img, rfl⟩ | ⟨o, a, d, rfl, hport⟩ := request_of_writesStores hs hw
      · exact .inl ⟨img, rest, hr⟩
      · exact .inr ⟨o, a, d, rest, hr, hport⟩
  · cases exec_effect i s t h with
    | reset => exact absurd rfl hi
    | wrData x d c p =>
      obtain ⟨nt, pal, trace, h⟩ := vramWrite_frame c p d s
      simp [h]
    | wrOamdma x d c =>
      obtain ⟨w, vb, v, n, es, -, h⟩ := busReads_state c s .cpu (dmaSources d)
      simp [h]
    | _ => simp

end Sys2Proof.Machine
end

section
/-! PROOFS, family 20_memory. The mirrors of internal RAM (R63) and of the PPU register window (R64) in the address map. -/

namespace Sys2Proof.Machine

/-! Internal RAM (R63, R172, R173). -/

theorem exec_rdRam {s : State} {c : NesRom} (hc : s.cart = some c) (x : Access) :
    exec (.rdRam x) s = .next (Spec.answered (s.ramByte (x.physical.toNat % 0x0800)) s) := withCart_some hc _

theorem exec_wrRam {s : State} {c : NesRom} (hc : s.cart = some c) (x : Access) (d : Byte) :
    exec (.wrRam x d) s = .next (s.writeRam (x.physical.toNat % 0x0800) d) := withCart_some hc _

/-- Settles O18: both operations index the store by the address mod `0x0800`, and a store write changes one index. -/
theorem ramMirrorsAreOneCell : Obligations.RamMirrorsAreOneCell := by
  intro s c x y d hc _ _ _ _
  refine ⟨_, exec_wrRam hc x d, ?_⟩
  rw [exec_rdRam (s := s.writeRam _ d) hc, State.writeRam_ramByte]

/-! The register window (R64, R116). -/

theorem busInstr_window (l w : Bool) {x : Access} (d : Byte) (h1 : 0x2000 ≤ x.physical.toNat) (h2 : x.physical.toNat < 0x4000) :
    busInstr l w x d = portInstr l w (x.physical.toNat % 8) x d := by
  simp [busInstr, Nat.not_lt.mpr h1, h2]

/-- No register port's meaning looks at the access: neither the mirror used nor the origin matters. -/
theorem exec_portInstr_access (l w : Bool) {n : Nat} (hn : n < 8) (x y : Access) (d : Byte) (s : State) :
    exec (portInstr l w n x d) s = exec (portInstr l w n y d) s := by
  interval_cases n <;> cases w <;> cases l <;> rfl

/-- Two accesses in the register window with one register index end in the same way. -/
theorem exec_busInstr_window (l w : Bool) {x y : Access} (d : Byte) (s : State)
    (hx1 : 0x2000 ≤ x.physical.toNat) (hx2 : x.physical.toNat < 0x4000)
    (hy1 : 0x2000 ≤ y.physical.toNat) (hy2 : y.physical.toNat < 0x4000)
    (hxy : x.physical.toNat % 8 = y.physical.toNat % 8) :
    exec (busInstr l w x d) s = exec (busInstr l w y d) s := by
  rw [busInstr_window l w d hx1 hx2, busInstr_window l w d hy1 hy2, hxy]
  exact exec_portInstr_access l w (Nat.mod_lt _ (by decide)) x y d s

/-- Without a cartridge a read is refused, whatever its address and origin (R170). -/
theorem step_read_no_cart {s : State} (hc : s.cart = none) (rest : List Request) (o : Origin) (a : Addr) :
    step { s with requests := .read o a :: rest } = .refused .noCartridge := by
  simp [step, runRequest, requestKey, hc]

/-- Without a cartridge a write is refused, whatever its address, origin and data byte (R171). -/
theorem step_write_no_cart {s : State} (hc : s.cart = none) (rest : List Request) (o : Origin) (a : Addr) (d : Byte) :
    step { s with requests := .write o a d :: rest } = .refused .noCartridge := by
  simp [step, runRequest, requestKey, hc]

/-- Settles O39: the translation leaves the window alone, and both addresses have one register index. -/
theorem registerMirrorsAreOneRegister : Obligations.RegisterMirrorsAreOneRegister := by
  intro s rest o o' a b d ha1 ha2 hb
  obtain hc | ⟨c, hc⟩ := s.cart.eq_none_or_eq_some
  · refine ⟨?_, ?_⟩
    · rw [step_read_no_cart hc, step_read_no_cart hc]
    · rw [step_write_no_cart hc, step_write_no_cart hc]
  · have hb1 : 0x2000 ≤ b.toNat := by omega
    have hb2 : b.toNat < 0x4000 := by omega
    have hab : a.toNat % 8 = b.toNat % 8 := by omega
    have hmirror (w : Bool) (e : Byte) (t : State) :
        exec (busInstr s.w w ⟨o, a, translate c a o⟩ e) t = exec (busInstr s.w w ⟨o', b, translate c b o'⟩ e) t := by
      rw [translate_below c o (by omega), translate_below c o' (by omega)]
      exact exec_busInstr_window s.w w e t ha1 ha2 hb1 hb2 hab
    refine ⟨?_, ?_⟩
    · rw [step_read hc, step_read hc, hmirror]
    · rw [step_write hc, step_write hc, hmirror]

end Sys2Proof.Machine
end

section
/-! PROOFS, family 30_encoding. The first-match tables as total decoders (R102, R103), the encoder as their inverse (R101, R114),
and what follows for the operations given to a step (R115, R118, R119). -/

namespace Sys2Proof

/-! The operation of a bus transaction, by the range of its translated address (R61, R120); the register window is
`Machine.busInstr_window`. -/

section BusInstr

variable (l w : Bool) {x : Access} (d : Byte)

theorem busInstr_cpu_low (h : x.physical.toNat < 0x2000) (ho : x.origin = .cpu) :
    busInstr l w x d = if w then .wrRam x d else .rdRam x := by
  cases w <;> simp [busInstr, h, ho]

theorem busInstr_ppu_low (h : x.physical.toNat < 0x2000) (ho : x.origin = .ppu) :
    busInstr l w x d = if w then .pwrChr x d else .prdChr x := by
  cases w <;> simp [busInstr, h, ho]

theorem busInstr_oamdma (h : x.physical.toNat = 0x4014) : busInstr l w x d = if w then .wrOamdma x d else .rdOpen x := by
  cases w <;> simp [busInstr, h]

theorem busInstr_apu (h : x.physical.toNat = 0x4015) : busInstr l w x d = if w then .wrApu x d else .rdApustat x := by
  simp [busInstr, h]

theorem busInstr_joy1 (h : x.physical.toNat = 0x4016) : busInstr l w x d = if w then .wrJoy1 x d else .rdJoy1 x := by
  simp [busInstr, h]

theorem busInstr_joy2 (h : x.physical.toNat = 0x4017) : busInstr l w x d = if w then .wrJoy2 x d else .rdJoy2 x := by
  simp [busInstr, h]

/-- Above the register window and off the exact IO rows, the range alone selects the operation. -/
theorem busInstr_above (h : 0x4000 ≤ x.physical.toNat) (hio : x.physical.toNat < 0x4014 ∨ 0x4017 < x.physical.toNat) :
    busInstr l w x d =
      if x.physical.toNat < 0x4020 then (if w then .wrOpen x d else .rdOpen x)
      else if x.physical.toNat < 0x8000 then (if w then .wrCartlo x d else .rdCartlo x)
      else (if w then .wrPrg x d else .rdPrg x) := by
  have h1 : ¬x.physical.toNat < 0x2000 := by omega
  simp [busInstr, h1, Nat.not_lt.mpr h, ne_io _ hio]

end BusInstr

end Sys2Proof

namespace Sys2Proof.Machine

/-! Decoding an encoded operation (R101, R103, R104). -/

/-- The key of a read decodes to the read of its range. -/
theorem decodeKey_readKey {x : Access} {i : Instr} (h : busInstr false false x 0 = i) : decodeKey (readKey x) = .instr i := by
  simpa [readKey, decodeKey_bus] using h

/-- The key of a write decodes to the write of its range and latch bit. -/
theorem decodeKey_writeKey {l : Bool} {x : Access} {d : Byte} {i : Instr} (h : busInstr l true x d = i) :
    decodeKey (writeKey l x d) = .instr i := by
  simpa [writeKey, decodeKey_bus] using h

/-- The key of a data-port access decodes to the row of its region. -/
theorem decodeKey_vramKey {w : Bool} {p : PAddr} {d : Byte} {i : Instr} (h : vramInstr w p d = i) :
    decodeKey (.vram (vramKey w p d)) = .instr i := by
  simpa [decodeKey_vram] using h

theorem bounds_of_within {x : Access} {lo hi : Nat} (h : x.within lo hi = true) :
    lo ≤ x.physical.toNat ∧ x.physical.toNat < hi := by
  simp only [Access.within, Bool.and_eq_true, decide_eq_true_eq] at h
  exact ⟨h.1.2, h.2⟩

theorem low_bounds {x : Access} {o : Origin} (h : x.low o = true) : x.physical.toNat < 0x2000 ∧ x.origin = o := by
  simp only [Access.low, Bool.and_eq_true, decide_eq_true_eq] at h
  exact ⟨(bounds_of_within h.1).2, h.2⟩

theorem physical_of_exactly {x : Access} {a : Nat} (h : x.exactly a = true) : x.physical.toNat = a := by
  obtain ⟨h1, h2⟩ := bounds_of_within h
  omega

theorem busInstr_of_port {x : Access} {n : Nat} (h : x.port n = true) (l w : Bool) (d : Byte) :
    busInstr l w x d = portInstr l w n x d := by
  simp only [Access.port, Bool.and_eq_true, decide_eq_true_eq] at h
  obtain ⟨hw, rfl⟩ := h
  obtain ⟨h1, h2⟩ := bounds_of_within hw
  exact busInstr_window l w d h1 h2

/-- An open-bus access avoids the exact IO rows, but for a read of `0x4014`, where only a write has one (R65). -/
theorem busInstr_of_open {x : Access} (h : x.within 0x4000 0x4014 = true ∨ x.within 0x4018 0x4020 = true) (l w : Bool)
    (d : Byte) :
    busInstr l w x d = if w then .wrOpen x d else .rdOpen x := by
  have hr : 0x4000 ≤ x.physical.toNat ∧ x.physical.toNat < 0x4014 ∨ 0x4018 ≤ x.physical.toNat ∧ x.physical.toNat < 0x4020 :=
    h.imp bounds_of_within bounds_of_within
  rw [busInstr_above l w d (by omega) (by omega), if_pos (by omega)]

theorem busInstr_of_open_read {x : Access} (h : x.within 0x4000 0x4015 = true ∨ x.within 0x4018 0x4020 = true) (l : Bool)
    (d : Byte) : busInstr l false x d = .rdOpen x := by
  have hr : 0x4000 ≤ x.physical.toNat ∧ x.physical.toNat < 0x4015 ∨ 0x4018 ≤ x.physical.toNat ∧ x.physical.toNat < 0x4020 :=
    h.imp bounds_of_within bounds_of_within
  by_cases h4 : x.physical.toNat = 0x4014
  · exact busInstr_oamdma l false d h4
  · rw [busInstr_above l false d (by omega) (by omega), if_pos (by omega)]
    rfl

theorem busInstr_of_cartlo {x : Access} (h : x.within 0x4020 0x8000 = true) (l w : Bool) (d : Byte) :
    busInstr l w x d = if w then .wrCartlo x d else .rdCartlo x := by
  obtain ⟨h1, h2⟩ := bounds_of_within h
  rw [busInstr_above l w d (by omega) (by omega), if_neg (by omega), if_pos h2]

theorem busInstr_of_prg {x : Access} (h : x.within 0x8000 0x10000 = true) (l w : Bool) (d : Byte) :
    busInstr l w x d = if w then .wrPrg x d else .rdPrg x := by
  obtain ⟨h1, -⟩ := bounds_of_within h
  rw [busInstr_above l w d (by omega) (by omega), if_neg (by omega), if_neg (by omega)]

theorem bounds_of_paddr_within {p : PAddr} {lo hi : Nat} (h : PAddr.within p lo hi = true) : lo ≤ p.toNat ∧ p.toNat < hi := by
  simpa only [PAddr.within, Bool.and_eq_true, decide_eq_true_eq] using h

section VramInstr

variable (w : Bool) {p : PAddr} (d : Byte)

theorem vramInstr_pat (h : PAddr.within p 0x0000 0x2000 = true) : vramInstr w p d = if w then .vwrPat p d else .vrdPat p := by
  rw [vramInstr, if_pos (bounds_of_paddr_within h).2]

theorem vramInstr_nt (h : PAddr.within p 0x2000 0x3000 = true) : vramInstr w p d = if w then .vwrNt p d else .vrdNt p := by
  obtain ⟨h1, h2⟩ := bounds_of_paddr_within h
  rw [vramInstr, if_neg (by omega), if_pos h2]

theorem vramInstr_ntm (h : PAddr.within p 0x3000 0x3F00 = true) : vramInstr w p d = if w then .vwrNtm p d else .vrdNtm p := by
  obtain ⟨h1, h2⟩ := bounds_of_paddr_within h
  rw [vramInstr, if_neg (by omega), if_neg (by omega), if_pos h2]

theorem vramInstr_pal (h : PAddr.within p 0x3F00 0x4000 = true) : vramInstr w p d = if w then .vwrPal p d else .vrdPal p := by
  obtain ⟨h1, -⟩ := bounds_of_paddr_within h
  rw [vramInstr, if_neg (by omega), if_neg (by omega), if_neg (by omega)]

end VramInstr

/-- The key of a well-formed operation decodes to it: its operands lie in the range of its own row. -/
theorem decodeKey_encodeKey {i : Instr} (h : i.wellFormed = true) : decodeKey (encodeKey i) = .instr i := by
  cases i with
  | rdRam x =>
    obtain ⟨hlt, ho⟩ := low_bounds h
    exact decodeKey_readKey (busInstr_cpu_low false false 0 hlt ho)
  | wrRam x d =>
    obtain ⟨hlt, ho⟩ := low_bounds h
    exact decodeKey_writeKey (busInstr_cpu_low false true d hlt ho)
  | prdChr x =>
    obtain ⟨hlt, ho⟩ := low_bounds h
    exact decodeKey_readKey (busInstr_ppu_low false false 0 hlt ho)
  | pwrChr x d =>
    obtain ⟨hlt, ho⟩ := low_bounds h
    exact decodeKey_writeKey (busInstr_ppu_low false true d hlt ho)
  | rdCtrl | rdMask | rdStatus | rdOamaddr | rdOamdata | rdScroll | rdAddr | rdData =>
    exact decodeKey_readKey (busInstr_of_port h false false 0)
  | wrCtrl _ d | wrMask _ d | wrStatus _ d | wrOamaddr _ d | wrOamdata _ d | wrScrollX _ d | wrAddrHi _ d | wrData _ d =>
    exact decodeKey_writeKey (busInstr_of_port h false true d)
  | wrScrollY _ d | wrAddrLo _ d => exact decodeKey_writeKey (busInstr_of_port h true true d)
  | wrOamdma x d => exact decodeKey_writeKey (busInstr_oamdma false true d (physical_of_exactly h))
  | rdApustat x => exact decodeKey_readKey (busInstr_apu false false 0 (physical_of_exactly h))
  | wrApu x d => exact decodeKey_writeKey (busInstr_apu false true d (physical_of_exactly h))
  | rdJoy1 x => exact decodeKey_readKey (busInstr_joy1 false false 0 (physical_of_exactly h))
  | wrJoy1 x d => exact decodeKey_writeKey (busInstr_joy1 false true d (physical_of_exactly h))
  | rdJoy2 x => exact decodeKey_readKey (busInstr_joy2 false false 0 (physical_of_exactly h))
  | wrJoy2 x d => exact decodeKey_writeKey (busInstr_joy2 false true d (physical_of_exactly h))
  | rdOpen x => exact decodeKey_readKey (busInstr_of_open_read ((Bool.or_eq_true _ _).mp h) false 0)
  | wrOpen x d => exact decodeKey_writeKey (busInstr_of_open ((Bool.or_eq_true _ _).mp h) false true d)
  | rdCartlo x => exact decodeKey_readKey (busInstr_of_cartlo h false false 0)
  | wrCartlo x d => exact decodeKey_writeKey (busInstr_of_cartlo h false true d)
  | rdPrg x => exact decodeKey_readKey (busInstr_of_prg h false false 0)
  | wrPrg x d => exact decodeKey_writeKey (busInstr_of_prg h false true d)
  | vrdPal p => exact decodeKey_vramKey (vramInstr_pal false 0 h)
  | vwrPal p d => exact decodeKey_vramKey (vramInstr_pal true d h)
  | vrdNtm p => exact decodeKey_vramKey (vramInstr_ntm false 0 h)
  | vwrNtm p d => exact decodeKey_vramKey (vramInstr_ntm true d h)
  | vrdNt p => exact decodeKey_vramKey (vramInstr_nt false 0 h)
  | vwrNt p d => exact decodeKey_vramKey (vramInstr_nt true d h)
  | vrdPat p => exact decodeKey_vramKey (vramInstr_pat false 0 h)
  | vwrPat p d => exact decodeKey_vramKey (vramInstr_pat true d h)
  | reset | insert | render | ackview => rfl

/-- Settles O7: the bytes carry the key, and the key decodes to the operation. -/
theorem decodeOfEncodeIsIdentity : Obligations.DecodeOfEncodeIsIdentity := by
  intro i h
  rw [decode_encode_key, decodeKey_encodeKey h]

/-! Totality and first match (R102). -/

/-- A key that decodes does so by a row that matches it and that no earlier matching row precedes. -/
theorem firstMatch_of_decodeBusKey {k : BitVec 27} {lg : Addr} {i : Instr} (h : decodeBusKey k lg = some i) :
    ∃ (n : Nat) (row : BusRow), busTable[n]? = some row ∧ k &&& row.mask = row.value ∧
      (∀ (m : Nat) (r : BusRow), m < n → busTable[m]? = some r → k &&& r.mask ≠ r.value) ∧
      i = row.build { origin := busKeyO k, logical := lg, physical := busKeyA k } (busKeyD k) := by
  obtain ⟨row, hrow, rfl⟩ := Option.map_eq_some_iff.mp h
  obtain ⟨hmatch, n, hn, hget, hbefore⟩ := List.find?_eq_some_iff_getElem.mp hrow
  refine ⟨n, row, List.getElem?_eq_some_iff.mpr ⟨hn, hget⟩, eq_of_beq hmatch, fun m r hm hr => ?_, rfl⟩
  obtain ⟨hm', rfl⟩ := List.getElem?_eq_some_iff.mp hr
  simpa using hbefore m hm

/-- Settles O3: every key is made of its fields, so the table's closed form decodes it, by its first matching row. -/
theorem busDecodeIsTotalAndFirstMatch : Obligations.BusDecodeIsTotalAndFirstMatch := by
  refine ⟨fun s c o a d hc => by simp [requestKey, hc], fun k lg => ?_⟩
  have hk := decodeBusKey_busKey (busKeyL k) (busKeyW k) (busKeyO k) (busKeyA k) (busKeyD k) lg
  rw [busKey_eta] at hk
  obtain ⟨n, row, hget, hmatch, hbefore, hi⟩ := firstMatch_of_decodeBusKey hk
  exact ⟨n, row, hget, hmatch, hbefore, hk.trans (congrArg some hi)⟩

/-! The data port (R100, R103, R207, R219). -/

theorem dataAddr_eq_setWidth (s : State) : s.dataAddr = s.v.setWidth 14 := BitVec.eq_of_toNat_eq rfl

/-- RD.DATA ends as the read row of its key does, with the address advanced (R207, R240, R245). -/
theorem exec_rdData_row {s : State} {c : NesRom} (hc : s.cart = some c) (x : Access) :
    ∃ u, exec (vramInstr false (s.v.setWidth 14) 0x00) s = .next u ∧
      exec (.rdData x) s = .next { u with v := u.v + Spec.increment s } := by
  obtain ⟨es, -, hstate⟩ := vramRead_state c (s.v.setWidth 14) s
  have hrd : exec (.rdData x) s = answer (ruleRdData c s) := withCart_some hc _
  refine ⟨_, exec_vramInstr_read hc _, ?_⟩
  rw [hrd, answer, ruleRdData, dataAddr_eq_setWidth, hstate]
  rfl

/-- WR.DATA ends as the write row of its key does, with the tables dirty and the address advanced (R219, R241, R245, R246). -/
theorem exec_wrData_row {s : State} {c : NesRom} (hc : s.cart = some c) (x : Access) (d : Byte) :
    ∃ u, exec (vramInstr true (s.v.setWidth 14) d) s = .next u ∧
      exec (.wrData x d) s = .next { u with ntDirty := true, v := u.v + Spec.increment s } := by
  obtain ⟨nt, pal, trace, hstate⟩ := vramWrite_frame c (s.v.setWidth 14) d s
  have hwr : exec (.wrData x d) s = .next (vramWrite c s.dataAddr d s).markDirty.advanceV := withCart_some hc _
  refine ⟨_, exec_vramInstr_write hc _ d, ?_⟩
  rw [hwr, dataAddr_eq_setWidth, hstate]
  rfl

/-- The regions read from the top down, as the table's rows stand (R103). -/
theorem vramInstr_descending (w : Bool) (p : PAddr) (d : Byte) :
    vramInstr w p d =
      if w = true then
        if 0x3F00 ≤ p.toNat then .vwrPal p d else if 0x3000 ≤ p.toNat then .vwrNtm p d
        else if 0x2000 ≤ p.toNat then .vwrNt p d else .vwrPat p d
      else
        if 0x3F00 ≤ p.toNat then .vrdPal p else if 0x3000 ≤ p.toNat then .vrdNtm p
        else if 0x2000 ≤ p.toNat then .vrdNt p else .vrdPat p := by
  obtain h | ⟨h, h'⟩ | ⟨h, h'⟩ | h := vram_regions p
  · simp [vramInstr, h, show ¬0x2000 ≤ p.toNat by omega, show ¬0x3000 ≤ p.toNat by omega, show ¬0x3F00 ≤ p.toNat by omega]
  · simp [vramInstr, h, h', show ¬p.toNat < 0x2000 by omega, show ¬0x3000 ≤ p.toNat by omega,
      show ¬0x3F00 ≤ p.toNat by omega]
  · simp [vramInstr, h, h', show ¬p.toNat < 0x2000 by omega, show ¬p.toNat < 0x3000 by omega,
      show ¬0x3F00 ≤ p.toNat by omega]
  · simp [vramInstr, h, show ¬p.toNat < 0x2000 by omega, show ¬p.toNat < 0x3000 by omega, show ¬p.toNat < 0x3F00 by omega]

theorem decodeVramKey_eq (k : BitVec 23) :
    decodeVramKey k = some (vramInstr (vramKeyW k) (vramKeyP k) (vramKeyD k)) := by
  conv_lhs => rw [← vramKey_eta k]
  exact decodeVramKey_vramKey ..

/-- Settles O4: the fields are the key's slices, no request has a VRAM key, and the port's access is its row's. -/
theorem vramDecodeByRegion : Obligations.VramDecodeByRegion := by
  refine ⟨fun w p d => ⟨vramKeyW_vramKey w p d, vramKey_slice_p w p d, vramKey_slice_d w p d⟩,
    fun s r k h => requestKey_not_vram h, fun s c x d hc => ⟨?_, ?_⟩, fun k => ?_⟩
  · obtain ⟨u, hrow, hport⟩ := exec_rdData_row hc x
    exact ⟨_, u, decodeVramKey_vramKey .., hrow, hport⟩
  · obtain ⟨u, hrow, hport⟩ := exec_wrData_row hc x d
    exact ⟨_, u, decodeVramKey_vramKey .., hrow, hport⟩
  · exact (decodeVramKey_eq k).trans (congrArg some (vramInstr_descending ..))

/-! The opcode map (R120) and the latch bit (R114). -/

theorem decodeBusKey_access (l w : Bool) (x : Access) (d : Byte) :
    decodeBusKey (busKey l w x.origin x.physical d) x.logical = some (busInstr l w x d) := decodeBusKey_busKey ..

/-- Settles O6: the closed form of the table, range by range. -/
theorem busOpcodeMap : Obligations.BusOpcodeMap := by
  intro l w x d a
  refine (decodeBusKey_access l w x d).trans (congrArg some ?_)
  by_cases h1 : a < 0x2000
  · rw [if_pos h1]
    cases ho : x.origin
    · rw [busInstr_cpu_low l w d h1 ho]
      cases w <;> rfl
    · rw [busInstr_ppu_low l w d h1 ho]
      cases w <;> rfl
  rw [if_neg h1]
  by_cases h2 : a < 0x4000
  · rw [if_pos h2, busInstr_window l w d (Nat.not_lt.mp h1) h2]
    have hn : x.physical.toNat % 8 < 8 := Nat.mod_lt _ (by decide)
    generalize a % 8 = n at hn ⊢
    interval_cases n <;> cases w <;> rfl
  rw [if_neg h2]
  by_cases h3 : a < 0x4020
  · rw [if_pos h3]
    by_cases hio : a < 0x4014 ∨ 0x4017 < a
    · rw [busInstr_above l w d (Nat.not_lt.mp h2) hio, if_pos h3]
      have hne := ne_io a hio
      cases w <;> simp [hne]
    obtain h | h | h | h : a = 0x4014 ∨ a = 0x4015 ∨ a = 0x4016 ∨ a = 0x4017 := by omega
    · rw [busInstr_oamdma l w d h, h]
      cases w <;> rfl
    · rw [busInstr_apu l w d h, h]
      cases w <;> rfl
    · rw [busInstr_joy1 l w d h, h]
      cases w <;> rfl
    · rw [busInstr_joy2 l w d h, h]
      cases w <;> rfl
  · rw [if_neg h3, busInstr_above l w d (Nat.not_lt.mp h2) (by omega), if_neg h3]

/-- The key of a register port's operation keeps L for the writes to indices 5 and 6 alone (R114). -/
theorem encodeKey_portInstr (l w : Bool) {n : Nat} (hn : n < 8) (x : Access) (d : Byte) :
    encodeKey (portInstr l w n x d) = if w then writeKey (l && decide (n = 5 ∨ n = 6)) x d else readKey x := by
  interval_cases n <;> cases w <;> cases l <;> rfl

theorem encodeKey_busInstr_outside (l w : Bool) {x : Access} (d : Byte)
    (h : ¬(0x2000 ≤ x.physical.toNat ∧ x.physical.toNat < 0x4000)) :
    encodeKey (busInstr l w x d) = if w then writeKey false x d else readKey x := by
  by_cases hlow : x.physical.toNat < 0x2000
  · cases ho : x.origin
    · rw [busInstr_cpu_low l w d hlow ho]
      cases w <;> rfl
    · rw [busInstr_ppu_low l w d hlow ho]
      cases w <;> rfl
  by_cases hio : x.physical.toNat < 0x4014 ∨ 0x4017 < x.physical.toNat
  · rw [busInstr_above l w d (by omega) hio]
    cases w <;> split_ifs <;> rfl
  obtain e | e | e | e : x.physical.toNat = 0x4014 ∨ x.physical.toNat = 0x4015 ∨ x.physical.toNat = 0x4016 ∨
      x.physical.toNat = 0x4017 := by omega
  · rw [busInstr_oamdma l w d e]
    cases w <;> rfl
  · rw [busInstr_apu l w d e]
    cases w <;> rfl
  · rw [busInstr_joy1 l w d e]
    cases w <;> rfl
  · rw [busInstr_joy2 l w d e]
    cases w <;> rfl

/-- The key of a bus operation is the key it was decoded from, with L where its row looks at it. -/
theorem encodeKey_busInstr (l w : Bool) (x : Access) (d : Byte) :
    encodeKey (busInstr l w x d) =
      if w then
        writeKey (l && decide (0x2000 ≤ x.physical.toNat ∧ x.physical.toNat < 0x4000 ∧
          (x.physical.toNat % 8 = 5 ∨ x.physical.toNat % 8 = 6))) x d
      else readKey x := by
  by_cases h : 0x2000 ≤ x.physical.toNat ∧ x.physical.toNat < 0x4000
  · rw [busInstr_window l w d h.1 h.2, encodeKey_portInstr l w (Nat.mod_lt _ (by decide))]
    simp only [h, true_and]
  · have hL : ¬(0x2000 ≤ x.physical.toNat ∧ x.physical.toNat < 0x4000 ∧
        (x.physical.toNat % 8 = 5 ∨ x.physical.toNat % 8 = 6)) := by tauto
    rw [encodeKey_busInstr_outside l w d h, decide_eq_false hL, Bool.and_false]

/-- Settles O8: encoding the table's closed form, where a read has data 0. -/
theorem encodeOfDecodeKeepsBusKey : Obligations.EncodeOfDecodeKeepsBusKey := by
  intro l w o a lg d hd
  refine ⟨_, decodeBusKey_busKey .., ?_⟩
  rw [encodeKey_busInstr]
  cases w with
  | false => simp [readKey, hd rfl]
  | true => simp [writeKey]

/-! The operations given to a step (R115, R118). -/

/-- The operation a request's key decodes to is the one the request selects. -/
theorem selects_of_decodeKey {s : State} {r : Request} {k : Key} {i : Instr} (hk : requestKey s r = some k)
    (hi : decodeKey k = .instr i) : selects s r = some i := by
  cases r with
  | read o a =>
    obtain ⟨c, hc, rfl⟩ := Option.map_eq_some_iff.mp hk
    simpa [selects, hc, decodeKey_bus] using hi
  | write o a d =>
    obtain ⟨c, hc, rfl⟩ := Option.map_eq_some_iff.mp hk
    simpa [selects, hc, decodeKey_bus] using hi
  | host op image =>
    cases hk
    cases h : decodeHostOp op image with
    | none => simp [decodeKey, h] at hi
    | some j => simpa [selects, decodeKey, h] using hi

/-- Settles O9: a request selects a well-formed operation only, and every region's row is well formed. -/
theorem givenOperationsAreWellFormed : Obligations.GivenOperationsAreWellFormed := by
  refine ⟨fun s r k i hk hi => selects_wellFormed (selects_of_decodeKey hk hi), fun k i h => ?_⟩
  cases (decodeVramKey_eq k).symm.trans h
  exact vramInstr_wellFormed ..

theorem decodeHostOp_of_lt {op : BitVec 4} (h : op.toNat < 4) (image : List Byte) : ∃ i, decodeHostOp op image = some i := by
  obtain rfl | rfl | rfl | rfl : op = 0#4 ∨ op = 1#4 ∨ op = 2#4 ∨ op = 3#4 := by
    simp only [← BitVec.toNat_inj, BitVec.toNat_ofNat]
    omega
  all_goals exact ⟨_, rfl⟩

theorem decodeHostOp_of_reserved {op : BitVec 4} (h : 4 ≤ op.toNat) (image : List Byte) : decodeHostOp op image = none := by
  have hne (n : BitVec 4) (hn : n.toNat < 4) : op ≠ n := by
    rintro rfl
    omega
  simp [decodeHostOp, hne 0#4, hne 1#4, hne 2#4, hne 3#4]

/-- With a cartridge a request selects an operation, unless it is a reserved host code. -/
theorem selects_isSome {s : State} {c : NesRom} (hc : s.cart = some c) {r : Request}
    (hr : ∀ op img, r = .host op img → op.toNat < 4) : ∃ i, selects s r = some i := by
  cases r with
  | read o a => exact ⟨_, by rw [selects, hc, Option.map_some]⟩
  | write o a d => exact ⟨_, by rw [selects, hc, Option.map_some]⟩
  | host op img => exact decodeHostOp_of_lt (hr op img rfl) img

/-- With a cartridge every meaning answers a next state (R115, R340). -/
theorem exec_completes {s : State} {c : NesRom} (hc : s.cart = some c) (i : Instr) : ∃ t, exec i s = .next t := by
  cases i with
  | reset => exact ⟨_, rfl⟩
  | insert img =>
    obtain ⟨c', h⟩ | ⟨kind, info, h⟩ := execInsert_cases img s
    · exact ⟨_, h⟩
    · exact ⟨_, h⟩
  | _ => exact ⟨_, withCart_some hc _⟩

/-- Settles O14: the request selects an operation, and with a cartridge that operation completes. -/
theorem everyOperationCompletesWithCartridge : Obligations.EveryOperationCompletesWithCartridge := by
  intro s r rest c hreq hc hhost
  obtain ⟨i, hi⟩ := selects_isSome (s := { s with requests := rest }) hc hhost
  rw [step, hreq]
  simp only [runRequest_of_selects hi]
  exact exec_completes (s := { s with requests := rest }) hc i

/-- Settles O5: the codes below 4 decode by the table's host rows, and none above them does. -/
theorem hostCodesAndReservedRefused : Obligations.HostCodesAndReservedRefused := by
  refine ⟨fun img => ⟨rfl, rfl, rfl, rfl⟩, fun s rest op img hop hreq => ?_⟩
  simp [step, hreq, runRequest, requestKey, runKey, decodeKey, decodeHostOp_of_reserved hop]

/-- Settles O10: five fixed keys. -/
theorem workedEncodings : Obligations.WorkedEncodings := by
  unfold Obligations.WorkedEncodings
  decide

/-! SETV (R119). -/

theorem statusByte_eq (vb : Bool) : statusByte vb = if vb = true then 0x80 else 0x00 := by cases vb <;> rfl

/-- The high slice of an append is its high part. -/
theorem extract_append_high {m n : Nat} (x : BitVec m) (y : BitVec n) : (x ++ y).extractLsb' n m = x := by
  apply BitVec.eq_of_getLsbD_eq
  intro i hi
  simp [BitVec.getLsbD_append, hi]

theorem foldAddrLo_low (t : VAddr) (d : Byte) : (foldAddrLo t d).extractLsb' 0 8 = d := extract_append_low _ _

theorem foldAddrLo_high (t : VAddr) (d : Byte) : (foldAddrLo t d).extractLsb' 8 7 = t.extractLsb' 8 7 := extract_append_high _ _

theorem foldAddrHi_high (t : VAddr) (d : Byte) : (foldAddrHi t d).extractLsb' 8 7 = 0#1 ++ d.extractLsb' 0 6 :=
  extract_append_high _ _

/-- A short slice of a slice, from the same place. -/
theorem extract_extract_zero {w s m n : Nat} (k : BitVec w) (h : m ≤ n) :
    (k.extractLsb' s n).extractLsb' 0 m = k.extractLsb' s m := by
  apply BitVec.eq_of_getLsbD_eq
  intro i hi
  simp [hi, Nat.lt_of_lt_of_le hi h]

/-- The high half that the address port's first form makes: six bits of the byte, under a bit 14 that is 0 (R109, R217). -/
theorem addrHi_fields {a : VAddr} {d : Byte} (h : a.extractLsb' 8 7 = 0#1 ++ d.extractLsb' 0 6) :
    a.extractLsb' 8 6 = d.extractLsb' 0 6 ∧ a.getLsbD 14 = false := by
  refine ⟨?_, ?_⟩
  · rw [← extract_extract_zero a (show 6 ≤ 7 by decide), h]
    exact extract_append_low _ _
  · calc a.getLsbD 14 = (a.extractLsb' 8 7).getLsbD 6 := by simp
      _ = (0#1 ++ d.extractLsb' 0 6).getLsbD 6 := by rw [h]
      _ = false := BitVec.getLsbD_append

section Port

variable {s : State} {c : NesRom} (hc : s.cart = some c) (rest : List Request) (o : Origin) {a : Addr}
include hc

/-- A read in the register window runs its register's operation, at the address as given (R64, R170). -/
theorem step_read_port (h1 : 0x2000 ≤ a.toNat) (h2 : a.toNat < 0x4000) :
    step { s with requests := .read o a :: rest } =
      exec (portInstr s.w false (a.toNat % 8) ⟨o, a, a⟩ 0x00) { s with requests := rest } := by
  rw [step_read hc, translate_below c o (by omega), busInstr_window _ _ _ h1 h2]

/-- A write in the register window runs its register's operation, in the form the latch selects (R64, R114, R171). -/
theorem step_write_port (d : Byte) (h1 : 0x2000 ≤ a.toNat) (h2 : a.toNat < 0x4000) :
    step { s with requests := .write o a d :: rest } =
      exec (portInstr s.w true (a.toNat % 8) ⟨o, a, a⟩ d) { s with requests := rest } := by
  rw [step_write hc, translate_below c o (by omega), busInstr_window _ _ _ h1 h2]

theorem exec_rdStatus (x : Access) :
    exec (.rdStatus x) s =
      .next (Spec.answered (if s.vblank = true then 0x80 else 0x00) { s with w := false, vblank := false }) := by
  rw [← statusByte_eq]
  exact withCart_some hc _

theorem exec_wrAddrHi (x : Access) (d : Byte) :
    exec (.wrAddrHi x d) s = .next { s with t := foldAddrHi s.t d, w := true } := withCart_some hc _

theorem exec_wrAddrLo (x : Access) (d : Byte) :
    exec (.wrAddrLo x d) s = .next { s with t := foldAddrLo s.t d, v := foldAddrLo s.t d, w := false } := withCart_some hc _

/-- LATCHRST answers the status byte, and leaves the latch 0 (R119, R202). -/
theorem step_latchRst :
    step { s with requests := .read .cpu 0x2002 :: rest } =
      .next (Spec.answered (if s.vblank = true then 0x80 else 0x00)
        { s with w := false, vblank := false, requests := rest }) :=
  (step_read_port hc rest .cpu (by decide) (by decide)).trans (exec_rdStatus (s := { s with requests := rest }) hc _)

/-- With the latch 0 a write to `0x2006` is the address port's first form (R217). -/
theorem step_write_2006_first (d : Byte) (hw : s.w = false) :
    step { s with requests := .write .cpu 0x2006 d :: rest } =
      .next { s with t := foldAddrHi s.t d, w := true, requests := rest } := by
  rw [step_write_port hc rest .cpu d (by decide) (by decide), hw]
  exact exec_wrAddrHi (s := { s with requests := rest }) hc ⟨.cpu, 0x2006, 0x2006⟩ d

/-- With the latch 1 a write to `0x2006` is the address port's second form (R218). -/
theorem step_write_2006_second (d : Byte) (hw : s.w = true) :
    step { s with requests := .write .cpu 0x2006 d :: rest } =
      .next { s with t := foldAddrLo s.t d, v := foldAddrLo s.t d, w := false, requests := rest } := by
  rw [step_write_port hc rest .cpu d (by decide) (by decide), hw]
  exact exec_wrAddrLo (s := { s with requests := rest }) hc ⟨.cpu, 0x2006, 0x2006⟩ d

end Port

theorem run_succ {s t : State} (h : step s = .next t) (n : Nat) : Safety.run (n + 1) s = Safety.run n t := by
  simp [Safety.run, h]

/-- Both forms of the address port, in their order, commit the address they make (R217, R218). -/
theorem run_addressPair {s : State} {c : NesRom} (hc : s.cart = some c) (hw : s.w = false) (hi lo : Byte) :
    Safety.run 2 { s with requests := writesTo 0x2006 [hi, lo] } =
      .next { s with
        t := foldAddrLo (foldAddrHi s.t hi) lo, v := foldAddrLo (foldAddrHi s.t hi) lo, w := false, requests := [] } :=
  (run_succ (step_write_2006_first hc [.write .cpu 0x2006 lo] hi hw) 1).trans
    (run_succ (step_write_2006_second (s := { s with t := foldAddrHi s.t hi, w := true }) hc [] lo rfl) 0)

/-- Settles O41: a status read, then both forms of the address port. -/
theorem setVSetsTheAddress : Obligations.SetVSetsTheAddress := by
  intro s c hi lo hc
  obtain ⟨h8, h14⟩ := addrHi_fields ((foldAddrLo_high (foldAddrHi s.t hi) lo).trans (foldAddrHi_high s.t hi))
  refine ⟨foldAddrLo (foldAddrHi s.t hi) lo, foldAddrLo_low _ lo, h8, h14, ?_⟩
  exact (run_succ (step_latchRst hc (writesTo 0x2006 [hi, lo])) 2).trans
    (run_addressPair (s := Spec.answered _ { s with w := false, vblank := false }) hc rfl hi lo)

end Sys2Proof.Machine
end

section
/-! PROOFS, family 40_cartridge. NROM's translation and the PRG window it mirrors (R150, R151, R154, R177), and the checks of
INSERT in their order (R140 to R148, R336). -/

namespace Sys2Proof.Machine

/-! The mapper (R150, R151). -/

/-- On one bank the upper window's address goes down by its size. -/
theorem translate_mirror_toNat {c : NesRom} {a : Addr} (h : c.prgBankCount16K = 1) (ha : 0xC000 ≤ a.toNat) :
    (translate c a .cpu).toNat = a.toNat - 0x4000 := by
  rw [translate_mirror h ha]
  bv_omega

/-- Settles O23: the mirrored window is the translation's one case, and no address lies above it. -/
theorem nromTranslation : Obligations.NromTranslation := by
  intro c a o
  split_ifs with h
  · obtain ⟨rfl, ha, -, hbank⟩ := h
    exact translate_mirror_toNat hbank ha
  · rw [translate, if_neg fun ⟨ho, ha, hbank⟩ => h ⟨ho, ha, Nat.le_of_lt_succ a.isLt, hbank⟩]

/-! PRG reads (R154, R177). -/

/-- From `0x8000` up a bus transaction is a PRG row's (R61, R120). -/
theorem busInstr_prg (l w : Bool) {x : Access} (d : Byte) (h : 0x8000 ≤ x.physical.toNat) :
    busInstr l w x d = if w then .wrPrg x d else .rdPrg x := by
  rw [busInstr_above l w d (by omega) (by omega), if_neg (by omega), if_neg (by omega)]

/-- A PRG read that reaches a byte answers it and changes nothing else. -/
theorem exec_rdPrg_hit {s : State} {c : NesRom} (hc : s.cart = some c) {x : Access} {k : Nat} {b : Byte}
    (hx : x.physical.toNat = 0x8000 + k) (hb : c.prg[k]? = some b) : exec (.rdPrg x) s = .next (Spec.answered b s) := by
  have hread : exec (.rdPrg x) s = answer (romRead c.prg (x.physical.toNat - 0x8000) x s) := withCart_some hc _
  rw [hread, hx, Nat.add_sub_cancel_left, romRead_hit hb]
  rfl

/-- A step given a read that is translated to byte `k` of the PRG window answers that byte of PRG. -/
theorem step_read_prg {s : State} {c : NesRom} (hc : s.cart = some c) (rest : List Request) {o : Origin} {a : Addr} {k : Nat}
    {b : Byte} (ha : (translate c a o).toNat = 0x8000 + k) (hb : c.prg[k]? = some b) :
    step { s with requests := .read o a :: rest } = .next (Spec.answered b { s with requests := rest }) := by
  have hwindow : 0x8000 ≤ (translate c a o).toNat := by omega
  rw [step_read hc, busInstr_prg s.w false 0x00 hwindow]
  exact exec_rdPrg_hit (s := { s with requests := rest }) hc ha hb

/-- Settles O24: both windows are translated to byte `k` of the PRG window. -/
theorem oneBankPrgMirror : Obligations.OneBankPrgMirror := by
  intro s c rest k hc hbank hlen hk
  have hb : c.prg[k]? = some c.prg[k] := List.getElem?_eq_getElem (by omega)
  have hhigh : (BitVec.ofNat 16 (0xC000 + k)).toNat = 0xC000 + k := Nat.mod_eq_of_lt (by omega)
  have hlow : (BitVec.ofNat 16 (0x8000 + k)).toNat = 0x8000 + k := Nat.mod_eq_of_lt (by omega)
  refine ⟨c.prg[k], hb, step_read_prg hc rest ?_ hb, step_read_prg hc rest ?_ hb⟩
  · rw [translate_mirror_toNat hbank (by omega), hhigh]
    omega
  · rw [translate_below c .cpu (by omega), hlow]

/-! The header of an image (R141, R142, R147). -/

/-- The mapper id as a number: byte 7's high nibble above byte 6's (R147). -/
theorem headerMapperId_toNat (b6 b7 : Byte) : (headerMapperId b6 b7).toNat = b7.toNat / 16 * 16 + b6.toNat / 16 := by
  have h6 : b6.toNat / 16 < 16 := by omega
  have h7 : b7.toNat / 16 < 16 := by omega
  simp only [headerMapperId, BitVec.toNat_append, BitVec.extractLsb'_toNat, Nat.shiftRight_eq_div_pow, Nat.reducePow,
    Nat.mod_eq_of_lt h6, Nat.mod_eq_of_lt h7]
  rw [← Nat.shiftLeft_add_eq_or_of_lt h6, Nat.shiftLeft_eq]

theorem headerMapperId_eq_ofNat (b6 b7 : Byte) :
    headerMapperId b6 b7 = BitVec.ofNat 8 (b7.toNat / 16 * 16 + b6.toNat / 16) := by
  rw [← headerMapperId_toNat, BitVec.ofNat_toNat, BitVec.setWidth_eq]

/-- The one mapper INSERT supports is NROM (R148). -/
theorem mem_supportedMappers {m : Byte} : m ∈ Config.supportedMappers ↔ m = 0x00 := List.mem_singleton

/-- A signature is four bytes long. -/
theorem four_le_length_of_magic {img : List Byte} (h : img.take 4 = headerMagic) : 4 ≤ img.length := by
  have := congrArg List.length h
  simp only [List.length_take, headerMagic, List.length_cons, List.length_nil] at this
  omega

/-- No image needs less than its header (R142). -/
theorem sixteen_le_imgNeed (img : List Byte) : 16 ≤ imgNeed img := by
  simp only [imgNeed, prgOffset]
  omega

/-! The checks of INSERT in their order (R140, R336). -/

section Checks

variable {img : List Byte}

theorem parseImage_badSignature (h : img.length < 4 ∨ img.take 4 ≠ headerMagic) :
    parseImage img = .error .badSignature none := if_pos h

variable (hmagic : img.take 4 = headerMagic)
include hmagic

/-- Past the signature the first two checks are one: the data an image needs includes its header. -/
theorem parseImage_of_magic :
    parseImage img =
      if img.length < imgNeed img then .error .tooShort none
      else if headerMapperId (imgByte img 6) (imgByte img 7) = 0x00 then .rom (imgRom img)
      else .error .unsupportedMapper (some (headerMapperId (imgByte img 6) (imgByte img 7))) := by
  have hsig : ¬(img.length < 4 ∨ img.take 4 ≠ headerMagic) :=
    not_or.mpr ⟨Nat.not_lt.mpr (four_le_length_of_magic hmagic), not_not.mpr hmagic⟩
  have hheader := sixteen_le_imgNeed img
  simp only [parseImage, if_neg hsig, mem_supportedMappers]
  by_cases h16 : img.length < 16
  · rw [if_pos h16, if_pos (by omega)]
  · rw [if_neg h16]

theorem parseImage_tooShort (h : img.length < imgNeed img) : parseImage img = .error .tooShort none := by
  rw [parseImage_of_magic hmagic, if_pos h]

variable (hneed : imgNeed img ≤ img.length)
include hneed

theorem parseImage_unsupportedMapper (h : headerMapperId (imgByte img 6) (imgByte img 7) ≠ 0x00) :
    parseImage img = .error .unsupportedMapper (some (headerMapperId (imgByte img 6) (imgByte img 7))) := by
  rw [parseImage_of_magic hmagic, if_neg (Nat.not_lt.mpr hneed), if_neg h]

theorem parseImage_good (h : headerMapperId (imgByte img 6) (imgByte img 7) = 0x00) :
    parseImage img = .rom (imgRom img) := by
  rw [parseImage_of_magic hmagic, if_neg (Nat.not_lt.mpr hneed), if_pos h]

end Checks

theorem exec_insert_of_rom {img : List Byte} {c : NesRom} (h : parseImage img = .rom c) (s : State) :
    exec (.insert img) s = .next { s with cart := some c } := by
  simp only [exec, execInsert, h]

theorem exec_insert_of_error {img : List Byte} {kind : FormatErrKind} {info : Option Byte}
    (h : parseImage img = .error kind info) (s : State) :
    exec (.insert img) s = .next (Spec.logged (.formatErr kind info) s) := by
  simp only [exec, execInsert, h]
  rfl

/-- Settles O46: the image passes every check, and the record sliced from it is the one stated. -/
theorem insertOfAGoodImage : Obligations.InsertOfAGoodImage := by
  rintro s img _ _ _ _ rfl rfl rfl rfl hmagic hneed hmapper
  have hid : headerMapperId (imgByte img 6) (imgByte img 7) = 0x00 :=
    BitVec.eq_of_toNat_eq ((headerMapperId_toNat ..).trans hmapper)
  have hrom : imgRom img = { imgRom img with mapperId := 0x00 } := by rw [← hid]; rfl
  rw [exec_insert_of_rom (parseImage_good hmagic hneed hid), hrom]
  rfl

/-- Settles O47: the checks in their order, each with the event of its failure. -/
theorem insertReportsFirstFailingCheck : Obligations.InsertReportsFirstFailingCheck := by
  rintro s img _ _ rfl rfl
  refine ⟨fun hsig => exec_insert_of_error (parseImage_badSignature hsig) s,
    fun _ hmagic hshort => exec_insert_of_error (parseImage_tooShort hmagic ?_) s, fun _ hmagic hneed hmapper => ?_⟩
  · obtain h | h := hshort
    · exact Nat.lt_of_lt_of_le h (sixteen_le_imgNeed img)
    · exact h
  · have hid : headerMapperId (imgByte img 6) (imgByte img 7) ≠ 0x00 := fun h =>
      hmapper ((headerMapperId_toNat ..).symm.trans (congrArg BitVec.toNat h))
    rw [exec_insert_of_error (parseImage_unsupportedMapper hmagic hneed hid), headerMapperId_eq_ofNat]
    rfl

end Sys2Proof.Machine
end

section
/-! PROOFS, family 41_bus. A bus transaction as the row of its translated address (R170, R171), the rows outside the register window
(R172 to R177, R179 to R188), and OAM-DMA as bus reads and a block write (R178). -/

namespace Sys2Proof

/-! The rows a bus transaction selects whatever the latch is (R102, R114). -/

/-- The operations of the BUS read rows. -/
def Instr.isBusRead : Instr → Bool
  | .rdRam _ | .prdChr _ | .rdCtrl _ | .rdMask _ | .rdStatus _ | .rdOamaddr _ | .rdOamdata _ | .rdScroll _ | .rdAddr _
  | .rdData _ | .rdApustat _ | .rdJoy1 _ | .rdJoy2 _ | .rdOpen _ | .rdCartlo _ | .rdPrg _ => true
  | _ => false

theorem isBusRead_portInstr (l : Bool) {n : Nat} (hn : n < 8) (x : Access) (d : Byte) :
    (portInstr l false n x d).isBusRead = true := by
  interval_cases n <;> rfl

/-- A read selects a read row. -/
theorem isBusRead_busInstr (l : Bool) (x : Access) (d : Byte) : (busInstr l false x d).isBusRead = true := by
  by_cases h1 : x.physical.toNat < 0x2000
  · cases ho : x.origin
    · rw [busInstr_cpu_low l false d h1 ho]
      rfl
    · rw [busInstr_ppu_low l false d h1 ho]
      rfl
  by_cases h2 : x.physical.toNat < 0x4000
  · rw [Machine.busInstr_window l false d (Nat.not_lt.mp h1) h2]
    exact isBusRead_portInstr l (Nat.mod_lt _ (by decide)) x d
  · simp only [busInstr, if_neg h1, if_neg h2, Bool.false_eq_true, and_false, if_false]
    split_ifs <;> rfl

section Ranges

variable (l w : Bool) {x : Access} (d : Byte)

/-- A read of `0x4014` is an open-bus read: only the write has a row of its own (R65, R184). -/
theorem busInstr_open_read (h : 0x4000 ≤ x.physical.toNat) (h' : x.physical.toNat < 0x4020)
    (hio : x.physical.toNat ∉ [0x4015, 0x4016, 0x4017]) : busInstr l false x d = .rdOpen x := by
  simp only [List.mem_cons, List.not_mem_nil, or_false, not_or] at hio
  by_cases h4 : x.physical.toNat = 0x4014
  · exact busInstr_oamdma l false d h4
  · rw [busInstr_above l false d h (by omega), if_pos h']
    rfl

theorem busInstr_open_write (h : 0x4000 ≤ x.physical.toNat) (h' : x.physical.toNat < 0x4020)
    (hio : x.physical.toNat ∉ [0x4014, 0x4015, 0x4016, 0x4017]) : busInstr l true x d = .wrOpen x d := by
  simp only [List.mem_cons, List.not_mem_nil, or_false, not_or] at hio
  rw [busInstr_above l true d h (by omega), if_pos h']
  rfl

theorem busInstr_cartlo (h : 0x4020 ≤ x.physical.toNat) (h' : x.physical.toNat < 0x8000) :
    busInstr l w x d = if w then .wrCartlo x d else .rdCartlo x := by
  rw [busInstr_above l w d (by omega) (by omega), if_neg (by omega), if_pos h']

end Ranges

end Sys2Proof

namespace Sys2Proof.Machine

open Spec

theorem selectedBy_of_busInstr {w : Bool} {x : Access} {d : Byte} {i : Instr} (h : ∀ l, busInstr l w x d = i) :
    selectedBy w x d i := fun l =>
  (decodeBusKey_access l w x d).trans (congrArg some (h l))

/-- Settles O12: the cartridge guard is the key's, and a key decodes to the operation of its translated address. -/
theorem busTransactionRunsItsRow : Obligations.BusTransactionRunsItsRow := by
  intro s rest o a d
  refine ⟨fun hc => ⟨step_read_no_cart hc rest o a, step_write_no_cart hc rest o a d⟩, fun c hc => ⟨?_, ?_⟩⟩
  · exact ⟨_, decodeBusKey_busKey .., step_read hc rest o a⟩
  · exact ⟨_, decodeBusKey_busKey .., step_write hc rest o a d⟩

/-! OAM-DMA (R110, R178). -/

theorem exec_wrOamdma {s : State} {c : NesRom} (hc : s.cart = some c) (x : Access) (d : Byte) :
    exec (.wrOamdma x d) s = .next { (busReads c .cpu (dmaSources d) s).2 with
      oam := (busReads c .cpu (dmaSources d) s).2.oam.writeAll 0 (busReads c .cpu (dmaSources d) s).1 } := withCart_some hc _

/-- A read row's meaning answers what the bus dispatcher takes from the row's rule. -/
theorem exec_of_isBusRead {s : State} {c : NesRom} (hc : s.cart = some c) {i : Instr} (hi : i.isBusRead = true) :
    exec i s = answer (busReadRow c i s) := by
  cases i with
  | rdRam | prdChr | rdCtrl | rdMask | rdStatus | rdOamaddr | rdOamdata | rdScroll | rdAddr | rdData | rdApustat
  | rdJoy1 | rdJoy2 | rdOpen | rdCartlo | rdPrg => exact withCart_some hc _
  | _ => cases hi

/-- Inside an operation a bus read appends nothing to the replies, and it never touches the cartridge. -/
theorem busRead_replies_cart (c : NesRom) (a : Addr) (o : Origin) (s : State) :
    (busRead c a o s).2.replies = s.replies ∧ (busRead c a o s).2.cart = s.cart := by
  obtain ⟨w, vb, v, n, es, -, h⟩ := busRead_state c s a o
  rw [h]
  exact ⟨rfl, rfl⟩

/-- The dispatcher's sequence of reads is one of transactions, each through the row it selects in the state before it. -/
theorem readsInOrder_busReads {s : State} {c : NesRom} (hc : s.cart = some c) (as : List Addr) :
    ReadsInOrder c as s (busReads c .cpu as s).1 (busReads c .cpu as s).2 := by
  induction as generalizing s with
  | nil => exact ⟨rfl, rfl⟩
  | cons a as ih =>
    obtain ⟨hreplies, hcart⟩ := busRead_replies_cart c a .cpu s
    have hexec := exec_of_isBusRead hc (isBusRead_busInstr s.w ⟨.cpu, a, translate c a .cpu⟩ 0x00)
    rw [← busRead_eq] at hexec
    refine ⟨_, _, (busRead c a .cpu s).1, _, decodeBusKey_busKey .., hexec, congrArg (· ++ _) hreplies, rfl, ?_⟩
    have hstate : { (busRead c a .cpu s).2 with replies := s.replies } = (busRead c a .cpu s).2 := by rw [← hreplies]
    exact hstate.symm ▸ ih (hcart.trans hc)

theorem dmaSource_eq_ofNat (d : Byte) {i : Nat} (hi : i < 256) : dmaSource d i = BitVec.ofNat 16 (d.toNat * 0x100 + i) := by
  apply BitVec.eq_of_toNat_eq
  rw [dmaSource, append_toNat, BitVec.toNat_ofNat, BitVec.toNat_ofNat]
  omega

/-- The source addresses of a page, as numbers (R110). -/
theorem dmaSources_eq_ofNat (d : Byte) :
    dmaSources d = (List.range 256).map fun i => BitVec.ofNat 16 (d.toNat * 0x100 + i) :=
  List.map_congr_left fun _ hi => dmaSource_eq_ofNat d (List.mem_range.mp hi)

/-- OAM after a block write from index 0. -/
theorem oamByte_writeAll (s : State) (bs : List Byte) (i : Nat) :
    { s with oam := s.oam.writeAll 0 bs }.oamByte i = if i < bs.length then bs.getD i 0 else s.oamByte i := by
  simp only [State.oamByte, Memory.read?_writeAll, Nat.zero_le, true_and, Nat.zero_add, Nat.sub_zero]
  split_ifs with h
  · simp [h]
  · rfl

/-- Settles O25: the dispatcher's reads are the transactions, and their 256 bytes are written as one block. -/
theorem oamDmaReadsThenCopies : Obligations.OamDmaReadsThenCopies := by
  intro s c x d hc hx
  have hreads := readsInOrder_busReads hc (dmaSources d)
  have hlen : (busReads c .cpu (dmaSources d) s).1.length = 256 := by simp [dmaSources]
  have hexec := exec_wrOamdma hc x d
  generalize busReads c .cpu (dmaSources d) s = r at hreads hlen hexec
  rw [dmaSources_eq_ofNat] at hreads
  refine ⟨selectedBy_of_busInstr fun l => busInstr_oamdma l true d (congrArg BitVec.toNat hx), r.1, r.2, _, hreads, hlen, hexec,
    rfl, fun i => ?_⟩
  rw [oamByte_writeAll, hlen]

/-- Reads of internal RAM answer its bytes and have no side effect (R172). -/
theorem busReads_ram (c : NesRom) (s : State) (as : List Addr) (h : ∀ a ∈ as, a.toNat < 0x2000) :
    busReads c .cpu as s = (as.map fun a => s.ramByte (a.toNat % 0x0800), s) := by
  induction as with
  | nil => rfl
  | cons a as ih =>
    rw [busReads, busRead_ram c s (h a List.mem_cons_self), ih fun b hb => h b (List.mem_cons_of_mem a hb), List.map_cons]

/-- The mirrors of internal RAM in a page's source addresses (R63). -/
theorem dmaSource_mod (d : Byte) {i : Nat} (hi : i < 256) : (dmaSource d i).toNat % 0x0800 = d.toNat % 8 * 0x100 + i := by
  rw [dmaSource_eq_ofNat d hi, BitVec.toNat_ofNat]
  omega

/-- Settles O26: the sources of a page below `0x20` are internal RAM, whose reads change nothing. -/
theorem oamDmaFromRamPage : Obligations.OamDmaFromRamPage := by
  intro s c x d hc hd
  have hram : ∀ a ∈ dmaSources d, a.toNat < 0x2000 := fun a ha => by
    have := page_of_mem_dmaSources ha
    omega
  refine ⟨_, exec_wrOamdma hc x d, ?_, fun i hi => ?_⟩
  · rw [busReads_ram c s _ hram]
  · rw [busReads_ram c s _ hram, oamByte_writeAll]
    simp [dmaSources, hi, dmaSource_mod d hi]

/-! Internal RAM (R172, R173). -/

/-- Settles O17: below `0x2000` the origin selects RAM, and a store write changes one index. -/
theorem ramReadAndWrite : Obligations.RamReadAndWrite := by
  intro s c x d hc ho hx
  exact ⟨⟨selectedBy_of_busInstr fun l => busInstr_cpu_low l false 0x00 hx ho, exec_rdRam hc x⟩,
    selectedBy_of_busInstr fun l => busInstr_cpu_low l true d hx ho, _, exec_wrRam hc x d, rfl,
    fun i => s.writeRam_ramByte _ i d⟩

/-! The cartridge space (R153, R154, R174 to R177). -/

/-- The answer of a ROM read: the byte, or 0 with the diagnostic of a miss. -/
theorem answer_romRead (region : List Byte) (k : Nat) (x : Access) (s : State) :
    answer (romRead region k x s) = .next (romOutcome region k x s) := by
  by_cases h : k < region.length
  · rw [romRead_hit (List.getElem?_eq_getElem h), romOutcome, if_pos h, List.getD_eq_getElem region 0 h]
    rfl
  · rw [romRead_miss (Nat.not_lt.mp h), romOutcome, if_neg h]
    rfl

theorem exec_prdChr {s : State} {c : NesRom} (hc : s.cart = some c) (x : Access) :
    exec (.prdChr x) s = .next (romOutcome c.chr x.physical.toNat x s) := (withCart_some hc _).trans (answer_romRead ..)

theorem exec_rdPrg {s : State} {c : NesRom} (hc : s.cart = some c) (x : Access) :
    exec (.rdPrg x) s = .next (romOutcome c.prg (x.physical.toNat - 0x8000) x s) :=
  (withCart_some hc _).trans (answer_romRead ..)

/-- Settles O19: below `0x2000` the origin selects CHR, whose write row only logs. -/
theorem ppuOriginBelow2000 : Obligations.PpuOriginBelow2000 := by
  intro s c x d hc ho hx
  exact ⟨⟨selectedBy_of_busInstr fun l => busInstr_ppu_low l false 0x00 hx ho, exec_prdChr hc x⟩,
    selectedBy_of_busInstr fun l => busInstr_ppu_low l true d hx ho, withCart_some hc _⟩

/-- Settles O20: from `0x8000` up a read is a ROM read of PRG. (`prgRead` alone is the model's ROM read.) -/
theorem prgRead_holds : Obligations.PrgRead := by
  intro s c x hc hx
  exact ⟨selectedBy_of_busInstr fun l => busInstr_prg l false 0x00 hx, exec_rdPrg hc x⟩

/-- Settles O21: both rows are a miss. -/
theorem unmappedReadsAnswerZero : Obligations.UnmappedReadsAnswerZero := by
  intro s c x hc
  refine ⟨fun h h' hio => ⟨?_, withCart_some hc _⟩, fun h h' => ⟨?_, withCart_some hc _⟩⟩
  · exact selectedBy_of_busInstr fun l => busInstr_open_read l 0x00 h h' hio
  · exact selectedBy_of_busInstr fun l => busInstr_cartlo l false 0x00 h h'

/-- Settles O22: the three rows each raise their diagnostic. -/
theorem droppedWritesOnlyLog : Obligations.DroppedWritesOnlyLog := by
  intro s c x d hc
  refine ⟨fun h h' hio => ⟨?_, withCart_some hc _⟩, fun h h' => ⟨?_, withCart_some hc _⟩, fun h => ⟨?_, withCart_some hc _⟩⟩
  · exact selectedBy_of_busInstr fun l => busInstr_open_write l d h h' hio
  · exact selectedBy_of_busInstr fun l => busInstr_cartlo l true d h h'
  · exact selectedBy_of_busInstr fun l => busInstr_prg l true d h

/-! The collaborators (R179 to R183, R188). -/

/-- Settles O27: each of the three addresses has a row, which answers the next draw. -/
theorem collaboratorReads : Obligations.CollaboratorReads := by
  intro s c x hc
  refine ⟨fun h => ⟨?_, withCart_some hc _⟩, fun h => ⟨?_, withCart_some hc _⟩, fun h => ⟨?_, withCart_some hc _⟩⟩
  · exact selectedBy_of_busInstr fun l => busInstr_apu l false 0x00 (congrArg BitVec.toNat h)
  · exact selectedBy_of_busInstr fun l => busInstr_joy1 l false 0x00 (congrArg BitVec.toNat h)
  · exact selectedBy_of_busInstr fun l => busInstr_joy2 l false 0x00 (congrArg BitVec.toNat h)

/-- Settles O28: each of the three addresses has a row, which emits its event. -/
theorem collaboratorWrites : Obligations.CollaboratorWrites := by
  intro s c x d hc
  refine ⟨fun h => ⟨?_, withCart_some hc _⟩, fun h => ⟨?_, withCart_some hc _⟩, fun h => ⟨?_, withCart_some hc _⟩⟩
  · exact selectedBy_of_busInstr fun l => busInstr_apu l true d (congrArg BitVec.toNat h)
  · exact selectedBy_of_busInstr fun l => busInstr_joy1 l true d (congrArg BitVec.toNat h)
  · exact selectedBy_of_busInstr fun l => busInstr_joy2 l true d (congrArg BitVec.toNat h)

end Sys2Proof.Machine
end

section
/-! PROOFS, family 42_ppu_registers. The row of a register index (R64, R102), the fields of `S.t` that the control, scroll and
address ports write (R106 to R109), and the data port's access as the byte, the cell and the events of its region (R240 to R259). -/

namespace Sys2Proof.Machine

open Spec

/-! The row of a register index (R49, R64). -/

theorem busInstr_of_inPort {x : Access} {n : Nat} (h : inPort x n) (l w : Bool) (d : Byte) :
    busInstr l w x d = portInstr l w n x d := by
  obtain ⟨h1, h2, hn⟩ := h
  have hmod : x.physical.toNat % 8 = n := by omega
  rw [busInstr_window l w d h1 h2, hmod]

theorem decodeBusKey_of_inPort {x : Access} {n : Nat} (h : inPort x n) (l w : Bool) (d : Byte) :
    decodeBusKey (busKey l w x.origin x.physical d) x.logical = some (portInstr l w n x d) :=
  (decodeBusKey_access l w x d).trans (congrArg some (busInstr_of_inPort h l w d))

/-- A register whose row the latch has no part in (R114). -/
theorem selectedBy_of_inPort {x : Access} {n : Nat} (h : inPort x n) {w : Bool} {d : Byte} {i : Instr}
    (hi : ∀ l, portInstr l w n x d = i) : selectedBy w x d i :=
  selectedBy_of_busInstr fun l => (busInstr_of_inPort h l w d).trans (hi l)

/-! Reads of the registers but the data port (R200 to R206). -/

/-- Settles O29: the five rows answer 0 and have no other effect. -/
theorem writeOnlyPortsReadZero : Obligations.WriteOnlyPortsReadZero := by
  intro s c x hc
  refine ⟨fun h => ⟨?_, withCart_some hc _⟩, fun h => ⟨?_, withCart_some hc _⟩, fun h => ⟨?_, withCart_some hc _⟩,
    fun h => ⟨?_, withCart_some hc _⟩, fun h => ⟨?_, withCart_some hc _⟩⟩
  all_goals exact selectedBy_of_inPort h fun _ => rfl

/-- Settles O30: the status byte is taken before the flag and the latch are cleared. -/
theorem statusRead : Obligations.StatusRead := by
  intro s c x hc h
  exact ⟨selectedBy_of_inPort h fun _ => rfl, exec_rdStatus hc x⟩

/-- Settles O31: the row answers the addressed byte and leaves the state as it is. -/
theorem oamDataRead : Obligations.OamDataRead := by
  intro s c x hc h
  exact ⟨selectedBy_of_inPort h fun _ => rfl, withCart_some hc _⟩

/-! The fields of `S.t` after a port write (R106 to R109). -/

section Fields

variable (t : VAddr) (d : Byte)

/-- The control port's `t[11:10] <- d[1:0]`, between the fields it keeps (R210). -/
theorem foldNametable_fields :
    (foldNametable t d).extractLsb' 10 2 = d.extractLsb' 0 2 ∧ (foldNametable t d).extractLsb' 0 10 = t.extractLsb' 0 10 ∧
      (foldNametable t d).extractLsb' 12 3 = t.extractLsb' 12 3 := by
  have upper (s n : Nat) (hs : 10 ≤ s) : (foldNametable t d).extractLsb' s n =
      (t.extractLsb' 12 3 ++ d.extractLsb' 0 2).extractLsb' (s - 10) n := BitVec.extractLsb'_append_eq_of_le hs
  exact ⟨(upper 10 2 (by decide)).trans (extract_append_low _ _), extract_append_low _ _,
    (upper 12 3 (by decide)).trans (extract_append_high _ _)⟩

/-- The scroll port's first form, `t[4:0] <- d[7:3]`, under the field it keeps (R215). -/
theorem foldScrollX_fields :
    (foldScrollX t d).extractLsb' 0 5 = d.extractLsb' 3 5 ∧ (foldScrollX t d).extractLsb' 5 10 = t.extractLsb' 5 10 :=
  ⟨extract_append_low _ _, extract_append_high _ _⟩

/-- The scroll port's second form, `t[9:5] <- d[7:3]` and `t[14:12] <- d[2:0]`, with the two fields it keeps (R216). -/
theorem foldScrollY_fields :
    (foldScrollY t d).extractLsb' 5 5 = d.extractLsb' 3 5 ∧ (foldScrollY t d).extractLsb' 12 3 = d.extractLsb' 0 3 ∧
      (foldScrollY t d).extractLsb' 0 5 = t.extractLsb' 0 5 ∧ (foldScrollY t d).extractLsb' 10 2 = t.extractLsb' 10 2 := by
  have above5 (s n : Nat) (hs : 5 ≤ s) : (foldScrollY t d).extractLsb' s n =
      (d.extractLsb' 0 3 ++ t.extractLsb' 10 2 ++ d.extractLsb' 3 5).extractLsb' (s - 5) n :=
    BitVec.extractLsb'_append_eq_of_le hs
  have above10 (s n : Nat) (hs : 10 ≤ s) : (foldScrollY t d).extractLsb' s n =
      (d.extractLsb' 0 3 ++ t.extractLsb' 10 2).extractLsb' (s - 5 - 5) n :=
    (above5 s n (by omega)).trans (BitVec.extractLsb'_append_eq_of_le (by omega))
  exact ⟨(above5 5 5 (by decide)).trans (extract_append_low _ _), (above10 12 3 (by decide)).trans (extract_append_high _ _),
    extract_append_low _ _, (above10 10 2 (by decide)).trans (extract_append_low _ _)⟩

theorem foldAddrHi_low : (foldAddrHi t d).extractLsb' 0 8 = t.extractLsb' 0 8 := extract_append_low _ _

end Fields

/-! Writes of the registers but the data port (R210 to R218). -/

/-- Settles O33: the row writes `S.ctrl` and `S.t` alone, and the nametable bits of `S.t`. -/
theorem ctrlWrite : Obligations.CtrlWrite := by
  intro s c x d hc h
  exact ⟨selectedBy_of_inPort h fun _ => rfl, _, withCart_some hc _, foldNametable_fields s.t d⟩

/-- Settles O34: two rows store the byte, and the third does nothing. -/
theorem maskStatusOamAddrWrites : Obligations.MaskStatusOamAddrWrites := by
  intro s c x d hc
  refine ⟨fun h => ⟨?_, withCart_some hc _⟩, fun h => ⟨?_, withCart_some hc _⟩, fun h => ⟨?_, withCart_some hc _⟩⟩
  all_goals exact selectedBy_of_inPort h fun _ => rfl

/-- Settles O35: a store write changes one index, and a byte's sum wraps mod 256. -/
theorem oamDataWrite : Obligations.OamDataWrite := by
  intro s c x d hc h
  have hnext : s.oamAddr + 1 = BitVec.ofNat 8 ((s.oamAddr.toNat + 1) % 256) := by
    apply BitVec.eq_of_toNat_eq
    simp
  refine ⟨selectedBy_of_inPort h fun _ => rfl, _, withCart_some hc _, ?_, fun i => ?_⟩
  · rw [← hnext]
    rfl
  · exact State.writeOam_oamByte s s.oamAddr.toNat i d

/-- Settles O36: the latch picks the form, and each form writes its fields of `S.t`. -/
theorem scrollWrites : Obligations.ScrollWrites := by
  intro s c x d hc h
  exact ⟨⟨decodeBusKey_of_inPort h false true d, _, withCart_some hc _, foldScrollX_fields s.t d⟩,
    decodeBusKey_of_inPort h true true d, _, withCart_some hc _, foldScrollY_fields s.t d⟩

/-- Settles O37: the latch picks the form; the high half of the first has bit 14 clear, and the second commits the whole. -/
theorem addressWrites : Obligations.AddressWrites := by
  intro s c x d hc h
  obtain ⟨hbits, htop⟩ := addrHi_fields (foldAddrHi_high s.t d)
  exact ⟨⟨decodeBusKey_of_inPort h false true d, _, exec_wrAddrHi hc x d, hbits, htop, foldAddrHi_low s.t d⟩,
    decodeBusKey_of_inPort h true true d, _, exec_wrAddrLo hc x d, foldAddrLo_low s.t d, foldAddrLo_high s.t d⟩

/-! The cells of the PPU address space (R250, R252, R254, R255). -/

theorem tableOf_vertical {q : Nat} (hq : q < 4) : tableOf .vertical q = q % 2 := by interval_cases q <;> rfl

theorem tableOf_horizontal {q : Nat} (hq : q < 4) : tableOf .horizontal q = q / 2 := by interval_cases q <;> rfl

theorem ntIndex_eq_tableOf (arr : Arrangement) {p : PAddr} (h : p.toNat < 0x3000) :
    ntIndex arr p = tableOf arr ((p.toNat - 0x2000) / 0x400) * 0x400 + p.toNat % 0x400 := by
  have hq : (p.toNat - 0x2000) / 0x400 < 4 := by omega
  cases arr with
  | horizontal =>
    rw [tableOf_horizontal hq]
    rfl
  | vertical =>
    rw [tableOf_vertical hq]
    rfl

theorem ntIndex_eq_ntCell (c : NesRom) {p : PAddr} (h : 0x2000 ≤ p.toNat) (h' : p.toNat < 0x3000) :
    ntIndex c.nametableArrangement p = ntCell c p := by
  have hq : (p.toNat - 0x2000) / 0x400 = p.toNat / 0x400 % 4 := by omega
  rw [ntIndex_eq_tableOf _ h', hq, ntCell]

/-- The mirror lies a whole number of tables above the nametables (R252). -/
theorem ntIndex_mirror_eq_ntCell (c : NesRom) {p : PAddr} (h : 0x3000 ≤ p.toNat) :
    ntIndex c.nametableArrangement (p - 0x1000) = ntCell c p := by
  have hp := p.isLt
  have hsub : (p - 0x1000).toNat = p.toNat - 0x1000 := by bv_omega
  have hquad : (p.toNat - 0x1000) / 0x400 % 4 = p.toNat / 0x400 % 4 := by omega
  have hoff : (p.toNat - 0x1000) % 0x400 = p.toNat % 0x400 := by omega
  rw [ntIndex_eq_ntCell c (by omega) (by omega), ntCell, ntCell, hsub, hquad, hoff]

theorem palIndex_eq_palCell (p : PAddr) : palIndex p = palCell p := by
  simp only [palIndex, palCell, List.mem_cons, List.not_mem_nil, or_false]

/-! What the data port's access reads, writes and logs (R240, R241). -/

theorem patAccess_eq_patternAccess (c : NesRom) (p : PAddr) : patAccess c p = patternAccess p := by
  simp [patAccess, patternAccess]

section Regions

variable (c : NesRom) (s : State) {p : PAddr}

theorem vramByte_pat (h : p.toNat < 0x2000) : vramByte c s p = c.chr.getD p.toNat 0 := if_pos h

theorem vramByte_nt (h : 0x2000 ≤ p.toNat) (h' : p.toNat < 0x3F00) : vramByte c s p = s.ntByte (ntCell c p) :=
  (if_neg (Nat.not_lt.mpr h)).trans (if_pos h')

theorem vramByte_pal (h : 0x3F00 ≤ p.toNat) : vramByte c s p = s.palByte (palCell p) :=
  (if_neg (by omega)).trans (if_neg (Nat.not_lt.mpr h))

/-- A read above pattern space logs nothing (R251, R252, R256). -/
theorem vramReadEvents_above (h : 0x2000 ≤ p.toNat) : vramReadEvents c p = [] := if_neg (by omega)

/-- A read of pattern space is the ROM read of CHR at the address (R153, R247). -/
theorem romRead_chr_pat (h : p.toNat < 0x2000) :
    romRead c.chr p.toNat (patternAccess p) s = (vramByte c s p, { s with trace := s.trace ++ vramReadEvents c p }) := by
  refine Prod.ext ?_ ?_
  · rw [romRead_byte, vramByte_pat c s h]
  · have hevents : vramReadEvents c p =
        if p.toNat < c.chr.length then [] else [diagOf .unmappedAccess .r (patternAccess p) 0x00] := by
      simp only [vramReadEvents, h, true_and, ← Nat.not_lt, ite_not]
    rw [romRead_state, hevents]
    rfl

/-- A nametable byte is written (R253, R258). -/
theorem vramWritten_writeNt (d : Byte) (h : 0x2000 ≤ p.toNat) (h' : p.toNat < 0x3F00) :
    VramWritten c p d s (s.writeNt (ntCell c p) d) :=
  ⟨fun hp => absurd hp (Nat.not_lt.mpr h), fun _ _ => ⟨rfl, fun i => State.writeNt_ntByte s _ i d⟩,
    fun hp => absurd h' (Nat.not_lt.mpr hp)⟩

/-- A palette byte is written (R257). -/
theorem vramWritten_writePal (d : Byte) (h : 0x3F00 ≤ p.toNat) : VramWritten c p d s (s.writePal (palCell p) d) :=
  ⟨fun hp => absurd hp (by omega), fun _ hp => absurd hp (Nat.not_lt.mpr h),
    fun _ => ⟨rfl, fun i => State.writePal_palByte s _ i d⟩⟩

/-- A write to pattern space is dropped and logged (R248). -/
theorem vramWritten_pat (d : Byte) (h : p.toNat < 0x2000) : VramWritten c p d s (ruleVwrPat p d s) :=
  ⟨fun _ => rfl, fun hp => absurd h (Nat.not_lt.mpr hp), fun hp => absurd h (by omega)⟩

end Regions

/-- VramRead answers the byte of the address's region, and logs a read past the end of CHR (R240, R247, R251, R252, R256). -/
theorem vramRead_eq_vramByte (c : NesRom) (p : PAddr) (s : State) :
    vramRead c p s = (vramByte c s p, { s with trace := s.trace ++ vramReadEvents c p }) := by
  have hsilent (h : 0x2000 ≤ p.toNat) : { s with trace := s.trace ++ vramReadEvents c p } = s := by
    rw [vramReadEvents_above c h, List.append_nil]
  obtain h | ⟨h, h'⟩ | ⟨h, h'⟩ | h := vram_regions p
  · have hk : (patternAccess p).physical.toNat = p.toNat := BitVec.toNat_setWidth_of_le (by decide)
    rw [vramRead_pat c s h, ruleVrdPat, chrRead, patAccess_eq_patternAccess, hk]
    exact romRead_chr_pat c s h
  · rw [vramRead_nt c s h h', ruleVrdNt, hsilent h, vramByte_nt c s h (by omega), ntIndex_eq_ntCell c h h']
  · rw [vramRead_ntm c s h h', ruleVrdNtm, hsilent (by omega), vramByte_nt c s (by omega) h', ntIndex_mirror_eq_ntCell c h]
  · rw [vramRead_pal c s h, ruleVrdPal, hsilent (by omega), vramByte_pal c s h, palIndex_eq_palCell]

/-- VramWrite writes the cell of the address's region, or drops the byte (R241, R248, R253, R257, R258). -/
theorem vramWritten_vramWrite (c : NesRom) (p : PAddr) (d : Byte) (s : State) : VramWritten c p d s (vramWrite c p d s) := by
  obtain h | ⟨h, h'⟩ | ⟨h, h'⟩ | h := vram_regions p
  · rw [vramWrite_pat c d s h]
    exact vramWritten_pat c s d h
  · rw [vramWrite_nt c d s h h', ruleVwrNt, ntIndex_eq_ntCell c h h']
    exact vramWritten_writeNt c s d h (by omega)
  · rw [vramWrite_ntm c d s h h', ruleVwrNtm, ntIndex_mirror_eq_ntCell c h]
    exact vramWritten_writeNt c s d (by omega) h'
  · rw [vramWrite_pal c d s h, ruleVwrPal, palIndex_eq_palCell]
    exact vramWritten_writePal c s d h

/-! The data port (R207, R219). -/

@[simp] theorem vramWrite_v (c : NesRom) (p : PAddr) (d : Byte) (s : State) : (vramWrite c p d s).v = s.v := by
  obtain ⟨nt, pal, trace, hframe⟩ := vramWrite_frame c p d s
  rw [hframe]

/-- Settles O32: the port answers what VramRead does at `S.v[13:0]`, and then advances the address. -/
theorem dataPortRead : Obligations.DataPortRead := by
  intro s c x hc h
  obtain ⟨u, hrow, hport⟩ := exec_rdData_row hc x
  rw [exec_vramInstr_read hc, vramRead_eq_vramByte] at hrow
  cases hrow
  exact ⟨selectedBy_of_inPort h fun _ => rfl, hport⟩

/-- Settles O38: the port does what VramWrite does at `S.v[13:0]`, then sets the dirty flag and advances the address. -/
theorem dataPortWrite : Obligations.DataPortWrite := by
  intro s c x d hc h
  obtain ⟨u, hrow, hport⟩ := exec_wrData_row hc x d
  rw [exec_vramInstr_write hc] at hrow
  cases hrow
  rw [vramWrite_v] at hport
  exact ⟨selectedBy_of_inPort h fun _ => rfl, _, vramWritten_vramWrite c _ d s, hport⟩

end Sys2Proof.Machine
end

section
/-! PROOFS, family 43_vram. The row of a PPU address is its region's (R68, R120) and does what VramRead or VramWrite does at the
address (R240, R241); where the nametable and palette indices lie (R250, R254, R255). -/

namespace Sys2Proof.Machine

open Spec

/-! The region rows (R247, R248, R251, R252, R253, R256, R257, R258). -/

theorem paddr_within_of_bounds {p : PAddr} {lo hi : Nat} (h : lo ≤ p.toNat) (h' : p.toNat < hi) : PAddr.within p lo hi = true := by
  simpa only [PAddr.within, Bool.and_eq_true, decide_eq_true_eq] using And.intro h h'

section Rows

variable {s : State} {c : NesRom} (hc : s.cart = some c) {p : PAddr} {i : Instr}
include hc

/-- A read row is the one its key decodes to, and answers the byte at its address (R240). -/
theorem vramReadRow_of_vramInstr (h : vramInstr false p 0x00 = i) :
    decodeVramKey (vramKey false p 0x00) = some i ∧
      exec i s = .next (answered (vramByte c s p) { s with trace := s.trace ++ vramReadEvents c p }) := by
  rw [← h, exec_vramInstr_read hc, vramRead_eq_vramByte]
  exact ⟨decodeVramKey_vramKey .., rfl⟩

/-- A write row is the one its key decodes to, and writes the byte at its address (R241). -/
theorem vramWriteRow_of_vramInstr {d : Byte} (h : vramInstr true p d = i) :
    decodeVramKey (vramKey true p d) = some i ∧ ∃ t, exec i s = .next t ∧ VramWritten c p d s t := by
  rw [← h]
  exact ⟨decodeVramKey_vramKey .., _, exec_vramInstr_write hc p d, vramWritten_vramWrite c p d s⟩

end Rows

/-- Settles O42: each region's row is the one its key decodes to, and answers what VramRead answers. -/
theorem vramReadRows : Obligations.VramReadRows := by
  intro s c p hc
  refine ⟨fun h => ?_, fun h h' => ?_, fun h h' => ?_, fun h => ?_⟩
  · exact vramReadRow_of_vramInstr hc (vramInstr_pat false 0x00 (paddr_within_of_bounds (Nat.zero_le _) h))
  · exact vramReadRow_of_vramInstr hc (vramInstr_nt false 0x00 (paddr_within_of_bounds h h'))
  · exact vramReadRow_of_vramInstr hc (vramInstr_ntm false 0x00 (paddr_within_of_bounds h h'))
  · exact vramReadRow_of_vramInstr hc (vramInstr_pal false 0x00 (paddr_within_of_bounds h p.isLt))

/-- Settles O43: each region's row is the one its key decodes to, and writes what VramWrite writes. -/
theorem vramWriteRows : Obligations.VramWriteRows := by
  intro s c p d hc
  refine ⟨fun h => ?_, fun h h' => ?_, fun h h' => ?_, fun h => ?_⟩
  · exact vramWriteRow_of_vramInstr hc (vramInstr_pat true d (paddr_within_of_bounds (Nat.zero_le _) h))
  · exact vramWriteRow_of_vramInstr hc (vramInstr_nt true d (paddr_within_of_bounds h h'))
  · exact vramWriteRow_of_vramInstr hc (vramInstr_ntm true d (paddr_within_of_bounds h h'))
  · exact vramWriteRow_of_vramInstr hc (vramInstr_pal true d (paddr_within_of_bounds h p.isLt))

/-! The store indices (R250, R254, R255, R259). -/

/-- Settles O44: the index is the quadrant's physical table and the offset in it, inside the store. -/
theorem nametableMirroring : Obligations.NametableMirroring :=
  fun arr p _ h' => ⟨ntIndex_eq_tableOf arr h', ntIndex_mod arr p, ntIndex_lt arr p h'⟩

/-- The alias leaves the first cell of every four the low 4 bits of its address, and every other cell the low 5 (R254, R255). -/
theorem palIndex_eq_mod (p : PAddr) : palIndex p = if p.toNat % 4 = 0 then p.toNat % 16 else p.toNat % 32 := by
  simp only [palIndex]
  split <;> split <;> omega

/-- Two addresses share a cell exactly when they agree in the bits the alias leaves (R255). -/
theorem palIndex_eq_iff (p q : PAddr) :
    palIndex p = palIndex q ↔ p.toNat % 32 = q.toNat % 32 ∨ (p.toNat % 16 = q.toNat % 16 ∧ p.toNat % 4 = 0) := by
  rw [palIndex_eq_mod p, palIndex_eq_mod q]
  split <;> split <;> omega

/-- Settles O45: the index is the folded cell, no folded cell is selected, and the alias is exact. -/
theorem paletteIndexFolds : Obligations.PaletteIndexFolds := by
  intro p _
  have hfolded : palIndex p ∉ [0x10, 0x14, 0x18, 0x1C] := by
    obtain ⟨h10, h14, h18, h1C⟩ := palIndex_folds p
    simp [h10, h14, h18, h1C]
  exact ⟨palIndex_eq_palCell p, palIndex_lt p, hfolded, fun q _ => palIndex_eq_iff p q⟩

end Sys2Proof.Machine
end

section
/-! PROOFS, family 44_render. The end state and the events of a RENDER (R270, R272, R296 to R299), the sprite evaluation (R283,
R284) and the cell walk (R276 to R278), every pixel in closed form (R273 to R295), and what follows from it (R300, R301). -/

namespace Sys2Proof.Machine

open Spec

/-! RENDER and ACKVIEW as operations (R270, R299). -/

theorem exec_render {s : State} {c : NesRom} (hc : s.cart = some c) : exec .render s = .next (renderFrame c s) :=
  withCart_some hc _

/-- Settles O55: the host code is ACKVIEW's, whose meaning is one flag write. -/
theorem ackviewClearsDirty : Obligations.AckviewClearsDirty :=
  ⟨fun _ => rfl, fun _ _ hc => withCart_some hc _⟩

/-! The events of a RENDER (R272, R297, R298). -/

theorem ofNat_toNat_of_patAddr {k : Nat} (h : k < 0x2000) : (BitVec.ofNat 16 k).toNat = k := by
  rw [BitVec.toNat_ofNat]
  omega

/-- The misses of the pattern fetch are one for each address past the end of CHR (R272). -/
theorem patMisses_eq_fetchEvents (c : NesRom) :
    (patAddrs.filter fun a => decide (c.chr.length ≤ a.toNat)).map chrMiss = fetchEvents c := by
  have hpast : ∀ k ∈ List.range 0x2000,
      ((fun a : Addr => decide (c.chr.length ≤ a.toNat)) ∘ BitVec.ofNat 16) k = decide (c.chr.length ≤ k) := fun k hk => by
    rw [Function.comp_apply, ofNat_toNat_of_patAddr (List.mem_range.mp hk)]
  rw [patAddrs, List.filter_map, List.filter_congr hpast, List.map_map]
  rfl

theorem renderFrame_trace (c : NesRom) (s : State) :
    (renderFrame c s).trace = s.trace ++ (fetchEvents c ++ frameEvents s) := by
  rw [renderFrame_eq, patMisses_eq_fetchEvents, List.append_assoc]

/-- Settles O48: the frame of RENDER, its events in order. -/
theorem renderCompletes : Obligations.RenderCompletes := by
  refine ⟨fun _ => rfl, fun s c hc => ⟨_, exec_render hc, ?_, ?_⟩⟩
  · rw [renderFrame_eq]
  · rw [renderFrame_trace, frameEvents, ← List.append_assoc, ← List.append_assoc]
    rfl

/-- The two events that mark the end of a frame (R297, R298). -/
def Event.endsFrame : Event → Bool
  | .nmiRequest | .framePresented => true
  | .diag .. | .formatErr .. | .apuWrite .. | .inputWrite .. => false

/-- The events of a trace that mark the end of a frame. -/
def frameEnds (trace : List Event) : List Event := trace.filter Event.endsFrame

theorem count_frameEnds (trace : List Event) {e : Event} (h : e.endsFrame = true) : (frameEnds trace).count e = trace.count e :=
  List.count_filter h

theorem frameEnds_append (es es' : List Event) : frameEnds (es ++ es') = frameEnds es ++ frameEnds es' := List.filter_append ..

theorem frameEnds_emit (s : State) {e : Event} (h : e.endsFrame = false) : frameEnds (s.emit e).trace = frameEnds s.trace := by
  have hnone : frameEnds [e] = [] := by
    rw [frameEnds, List.filter_singleton, h]
    rfl
  rw [State.emit_trace, frameEnds_append, hnone, List.append_nil]

theorem frameEnds_romRead (region : List Byte) (k : Nat) (x : Access) (s : State) :
    frameEnds (romRead region k x s).2.trace = frameEnds s.trace := by
  unfold romRead
  split
  · rfl
  · exact frameEnds_emit s rfl

theorem frameEnds_vramRead (c : NesRom) (p : PAddr) (s : State) : frameEnds (vramRead c p s).2.trace = frameEnds s.trace := by
  obtain h | ⟨h, h'⟩ | ⟨h, h'⟩ | h := vram_regions p
  · rw [vramRead_pat c s h]
    exact frameEnds_romRead _ _ _ s
  · rw [vramRead_nt c s h h']
    rfl
  · rw [vramRead_ntm c s h h']
    rfl
  · rw [vramRead_pal c s h]
    rfl

theorem frameEnds_vramWrite (c : NesRom) (p : PAddr) (d : Byte) (s : State) :
    frameEnds (vramWrite c p d s).trace = frameEnds s.trace := by
  obtain h | ⟨h, h'⟩ | ⟨h, h'⟩ | h := vram_regions p
  · rw [vramWrite_pat c d s h]
    exact frameEnds_emit s rfl
  · rw [vramWrite_nt c d s h h']
    rfl
  · rw [vramWrite_ntm c d s h h']
    rfl
  · rw [vramWrite_pal c d s h]
    rfl

theorem frameEnds_busReadRow (c : NesRom) (i : Instr) (s : State) : frameEnds (busReadRow c i s).2.trace = frameEnds s.trace := by
  cases i with
  | rdData => exact frameEnds_vramRead c _ s
  | prdChr | rdPrg => exact frameEnds_romRead _ _ _ s
  | rdOpen | rdCartlo => exact frameEnds_emit s rfl
  | _ => rfl

theorem frameEnds_busReads (c : NesRom) (o : Origin) (as : List Addr) (s : State) :
    frameEnds (busReads c o as s).2.trace = frameEnds s.trace := by
  induction as generalizing s with
  | nil => rfl
  | cons a as ih =>
    refine (ih (busRead c a o s).2).trans ?_
    rw [busRead_eq, frameEnds_busReadRow]

theorem frameEnds_execInsert (image : List Byte) (s : State) :
    Ends (fun t => frameEnds t.trace = frameEnds s.trace) (execInsert image s) := by
  obtain ⟨c, h⟩ | ⟨kind, info, h⟩ := execInsert_cases image s <;> rw [h]
  · exact .next rfl
  · exact .next (frameEnds_emit s rfl)

/-- No operation but RENDER marks the end of a frame: what the others log are diagnostics, format errors and collaborator writes
(R45, R297, R330). -/
theorem frameEnds_exec {i : Instr} (hi : i ≠ .render) (s : State) :
    Ends (fun t => frameEnds t.trace = frameEnds s.trace) (exec i s) := by
  cases i with
  | render => exact absurd rfl hi
  | reset => exact .next rfl
  | insert image => exact frameEnds_execInsert image s
  | rdRam | rdCtrl | rdMask | rdStatus | rdOamaddr | rdOamdata | rdScroll | rdAddr | rdApustat | rdJoy1 | rdJoy2
  | vrdPal | vrdNtm | vrdNt => exact .withCart fun _ => .next rfl
  | prdChr | rdPrg | vrdPat => exact .withCart fun _ => .next (frameEnds_romRead _ _ _ s)
  | rdOpen | rdCartlo => exact .withCart fun _ => .next (frameEnds_emit s rfl)
  | rdData => exact .withCart fun c => .next (frameEnds_vramRead c _ s)
  | wrRam | wrCtrl | wrMask | wrStatus | wrOamaddr | wrOamdata | wrScrollX | wrScrollY | wrAddrHi | wrAddrLo
  | vwrPal | vwrNtm | vwrNt | ackview => exact .withCart fun _ => .next rfl
  | pwrChr | wrApu | wrJoy1 | wrJoy2 | wrOpen | wrCartlo | wrPrg | vwrPat =>
    exact .withCart fun _ => .next (frameEnds_emit s rfl)
  | wrData => exact .withCart fun c => .next (frameEnds_vramWrite c _ _ s)
  | wrOamdma _ d => exact .withCart fun c => .next (frameEnds_busReads c .cpu (dmaSources d) s)

theorem frameEnds_fetchEvents (c : NesRom) : frameEnds (fetchEvents c) = [] := by
  rw [frameEnds, fetchEvents, List.filter_eq_nil_iff, List.forall_mem_map]
  exact fun _ _ => Bool.false_ne_true

theorem frameEnds_frameEvents (s : State) : frameEnds (frameEvents s) = frameEvents s := by
  unfold frameEvents
  split <;> rfl

theorem frameEnds_renderFrame (c : NesRom) (s : State) :
    frameEnds (renderFrame c s).trace = frameEnds s.trace ++ frameEvents s := by
  rw [renderFrame_trace, frameEnds_append, frameEnds_append, frameEnds_fetchEvents, frameEnds_frameEvents, List.nil_append]

theorem count_nmiRequest_frameEvents (s : State) :
    (frameEvents s).count .nmiRequest = if s.ctrl.getLsbD 7 = true then 1 else 0 := by
  unfold frameEvents ctrlNmiEnable
  cases s.ctrl.getLsbD 7 <;> rfl

theorem count_framePresented_frameEvents (s : State) : (frameEvents s).count .framePresented = 1 := by
  unfold frameEvents
  split <;> rfl

/-- Settles O57: RENDER adds the events of one frame's end, every other operation none. -/
theorem nmiOnlyFromRender : Obligations.NmiOnlyFromRender := by
  intro i s t h
  have hnmi (trace : List Event) : trace.count .nmiRequest = (frameEnds trace).count .nmiRequest :=
    (count_frameEnds trace rfl).symm
  have hpresented (trace : List Event) : trace.count .framePresented = (frameEnds trace).count .framePresented :=
    (count_frameEnds trace rfl).symm
  rw [hnmi t.trace, hnmi s.trace, hpresented t.trace, hpresented s.trace]
  by_cases hi : i = .render
  · subst hi
    obtain ⟨c, -, hf⟩ := withCart_next h
    cases hf
    simp only [frameEnds_renderFrame, List.count_append, count_nmiRequest_frameEvents, count_framePresented_frameEvents,
      true_and, if_true, and_self]
  · simp only [frameEnds_exec hi s t h, hi, false_and, if_false, Nat.add_zero, and_self]

/-! Sprite evaluation (R283, R284). -/

/-- The candidate that entry `i` is on a line it is in range of (R284). -/
def candidateOn (s : State) (line i : Nat) : Candidate := { i := i, row := line - (s.oamByte (4 * i)).toNat }

theorem onLine_iff (s : State) (line i : Nat) :
    onLine s line i = true ↔ (s.oamByte (4 * i)).toNat ≤ line ∧ line < (s.oamByte (4 * i)).toNat + spriteHeight s := by
  rw [onLine, Bool.and_eq_true, decide_eq_true_eq, decide_eq_true_eq]

/-- A scan adds the entries in range, in order, as long as there is room for them (R283). -/
theorem spriteScan_eq (s : State) (line : Nat) (is : List Nat) (nb : List Candidate) :
    spriteScan s line (spriteHeight s) is nb =
      nb ++ ((is.filter (onLine s line)).take (8 - nb.length)).map (candidateOn s line) := by
  induction is generalizing nb with
  | nil => simp [spriteScan]
  | cons i is ih =>
    have hrange := onLine_iff s line i
    have hrow : ((line : Int) - ((s.oamByte (4 * i)).toNat : Int)).toNat = line - (s.oamByte (4 * i)).toNat := by omega
    simp only [spriteScan, hrow]
    by_cases hin : onLine s line i = true
    · have hbounds := hrange.mp hin
      rw [List.filter_cons_of_pos hin]
      by_cases hroom : nb.length < 8
      · have hleft : 8 - nb.length = (8 - (nb.length + 1)) + 1 := by omega
        rw [if_pos (by omega), ih, List.length_append, List.length_singleton, hleft, List.take_succ_cons, List.map_cons,
          List.append_assoc, List.singleton_append]
        rfl
      · rw [if_neg (by omega), ih, Nat.sub_eq_zero_of_le (Nat.not_lt.mp hroom), List.take_zero, List.take_zero]
    · have hbounds := mt hrange.mpr hin
      rw [if_neg (by omega), ih, List.filter_cons_of_neg hin]

theorem spriteEval_eq (s : State) (line : Nat) :
    spriteEval s line (spriteHeight s) = (candidates s line).map (candidateOn s line) :=
  spriteScan_eq s line (List.range 64) []

/-- Settles O52: the scan of all 64 entries from an empty set. -/
theorem spriteEvaluationFirstEight : Obligations.SpriteEvaluationFirstEight := fun s line _ => spriteEval_eq s line

/-! The cell walk (R276, R277, R278). -/

/-- A bit as a number, from the number the word is. -/
theorem getLsbD_toNat {w : Nat} (x : BitVec w) (i : Nat) : (x.getLsbD i).toNat = x.toNat / 2 ^ i % 2 := Nat.toNat_testBit ..

theorem tHorizontal_eq (t : VAddr) : tHorizontal t = t.toNat / 0x400 % 2 := getLsbD_toNat t 10

theorem tVertical_eq (t : VAddr) : tVertical t = t.toNat / 0x800 % 2 := getLsbD_toNat t 11

/-- The vertical walk in closed form: below row 30 it wraps at 30 and toggles the bit, above it wraps at 32 and does not (R278).
Its 31 rows are too few for a second wrap. -/
theorem cellRow_eq (s : State) {cy : Nat} (h : cy < 31) :
    cellRow s cy =
      if s.scrollY.toNat / 8 < 30 then
        ((s.scrollY.toNat / 8 + cy) % 30, (s.t.toNat / 0x800 + (s.scrollY.toNat / 8 + cy) / 30) % 2)
      else ((s.scrollY.toNat / 8 + cy) % 32, s.t.toNat / 0x800 % 2) := by
  have hy := s.scrollY.isLt
  induction cy with
  | zero =>
    rw [cellRow, tVertical_eq]
    split <;> simp only [Prod.mk.injEq, and_true] <;> omega
  | succ cy ih =>
    rw [cellRow, ih (by omega)]
    simp only [rowStep]
    split_ifs <;> simp only [Prod.mk.injEq, and_true] <;> omega

theorem extractBit_toNat (t : VAddr) (i : Nat) : (t.extractLsb' i 1).toNat = t.toNat / 2 ^ i % 2 := by
  rw [BitVec.extractLsb'_toNat, Nat.shiftRight_eq_div_pow]

theorem toggle_toNat (b : BitVec 1) : (b ^^^ 1).toNat = (b.toNat + 1) % 2 := by
  revert b
  decide

/-- Settles O53: the two walks in closed form. -/
theorem backgroundCellWalk : Obligations.BackgroundCellWalk := by
  intro s cx cy hx hy X y0 h v
  have hrow := cellRow_eq s hy
  have hh : h.toNat = s.t.toNat / 0x400 % 2 := extractBit_toNat s.t 10
  have hv : v.toNat = s.t.toNat / 0x800 % 2 := extractBit_toNat s.t 11
  have hy0 : y0 < 32 := by have := s.scrollY.isLt; omega
  have hcol : (cellCol s cx).2 = (if X < 32 then h else h ^^^ 1).toNat := by
    rw [cellCol, tHorizontal_eq]
    split_ifs
    · exact hh.symm
    · rw [toggle_toNat, hh]
  have hbit : (cellRow s cy).2 = (if y0 < 30 ∧ 30 ≤ y0 + cy then v ^^^ 1 else v).toNat := by
    rw [hrow]
    split_ifs <;> simp only [toggle_toNat, hv] <;> omega
  have hty : (cellRow s cy).1 = if y0 < 30 then (y0 + cy) % 30 else (y0 + cy) % 32 := by
    rw [hrow]
    split_ifs <;> rfl
  rw [cellCoords, hcol, hbit, hty]
  rfl

/-! The pattern bytes of a picture (R272, R273). -/

/-- Fetched patterns are the CHR bytes, with 0 past the end, as far as pattern space reaches (R272). -/
def IsPatterns (c : NesRom) (pat : List Byte) : Prop := ∀ k, k < 0x2000 → pat.getD k 0 = c.chr.getD k 0

theorem isPatterns_patFetch (c : NesRom) (s : State) : IsPatterns c (patFetch c s).1 := fun _ hk => patFetch_byte c s hk

theorem tilePixel_eq_tileIndex {c : NesRom} {pat : List Byte} (hpat : IsPatterns c pat) {table tile row : Nat} (col : Nat)
    (ht : table < 2) (hi : tile < 256) (hr : row < 8) : tilePixel pat table tile row col = tileIndex c table tile row col := by
  simp only [tilePixel, tileIndex]
  rw [hpat _ (by omega), hpat _ (by omega), getLsbD_toNat, getLsbD_toNat]

theorem paletteColour_eq_colour (s : State) (i : Nat) : paletteColour s i = colour s i := by
  rw [paletteColour, colour, BitVec.setWidth_eq_extractLsb' (by decide)]

/-! The background (R275 to R282). -/

theorem cellCol_eq_bgColumn (s : State) {x : Nat} (hx : x < 256) :
    cellCol s ((x + s.scrollX.toNat % 8) / 8) = bgColumn s x := by
  have hX := s.scrollX.isLt
  have hcell : s.scrollX.toNat / 8 + (x + s.scrollX.toNat % 8) / 8 = (s.scrollX.toNat + x) / 8 := by omega
  simp only [cellCol, bgColumn, hcell, tHorizontal_eq]
  split_ifs <;> simp only [Prod.mk.injEq, true_and] <;> omega

theorem cellRow_eq_bgRow (s : State) {y : Nat} (hy : y < 240) :
    cellRow s ((y + s.scrollY.toNat % 8) / 8) = bgRow s y := by
  have hcell : s.scrollY.toNat / 8 + (y + s.scrollY.toNat % 8) / 8 = (s.scrollY.toNat + y) / 8 := by omega
  have hlow : s.scrollY.toNat / 8 < 30 ↔ s.scrollY.toNat < 240 := by omega
  have hwrap : (s.scrollY.toNat + y) / 8 / 30 = (s.scrollY.toNat + y) / 240 := Nat.div_div_eq_div_mul ..
  rw [cellRow_eq s (by omega), hcell, hwrap]
  simp only [bgRow, hlow]

theorem or_eq_add_of_lt {a b i : Nat} (hb : b < 2 ^ i) : a * 2 ^ i ||| b = a * 2 ^ i + b := by
  rw [← Nat.shiftLeft_eq, Nat.shiftLeft_add_eq_or_of_lt hb]

section Cell

variable {n tx ty : Nat} (hn : n < 4) (htx : tx < 32) (hty : ty < 32)
include hn htx hty

/-- The fields of a tile address do not overlap (R275). -/
theorem tileAddr_toNat : (tileAddr ⟨n, tx, ty⟩).toNat = 0x2000 + n * 0x400 + ty * 32 + tx := by
  have hbase : 0x2000 ||| n <<< 10 = (8 + n) * 2 ^ 10 := by interval_cases n <;> rfl
  have hrow : (8 + n) * 2 ^ 10 ||| ty <<< 5 = ((8 + n) * 32 + ty) * 2 ^ 5 := by
    rw [Nat.shiftLeft_eq, or_eq_add_of_lt (by omega)]
    omega
  simp only [tileAddr]
  rw [hbase, hrow, or_eq_add_of_lt (by omega), BitVec.toNat_ofNat]
  omega

/-- The fields of a selector address do not overlap (R279). -/
theorem attrAddr_toNat : (attrAddr ⟨n, tx, ty⟩).toNat = 0x23C0 + n * 0x400 + ty / 4 * 8 + tx / 4 := by
  have hbase : 0x23C0 ||| n <<< 10 = (0x8F + n * 16) * 2 ^ 6 := by interval_cases n <;> rfl
  have hrow : (0x8F + n * 16) * 2 ^ 6 ||| (ty >>> 2) <<< 3 = ((0x8F + n * 16) * 8 + ty / 4) * 2 ^ 3 := by
    rw [Nat.shiftLeft_eq, Nat.shiftRight_eq_div_pow, or_eq_add_of_lt (by omega)]
    omega
  simp only [attrAddr]
  rw [hbase, hrow, Nat.shiftRight_eq_div_pow, or_eq_add_of_lt (by omega), BitVec.toNat_ofNat]
  omega

theorem ntIndex_tileAddr (arr : Arrangement) :
    ntIndex arr (tileAddr ⟨n, tx, ty⟩) = tableOf arr n * 0x400 + 32 * ty + tx := by
  have ha := tileAddr_toNat hn htx hty
  have hq : (0x2000 + n * 0x400 + ty * 32 + tx - 0x2000) / 0x400 = n := by omega
  rw [ntIndex_eq_tableOf arr (by omega), ha, hq]
  omega

theorem ntIndex_attrAddr (arr : Arrangement) :
    ntIndex arr (attrAddr ⟨n, tx, ty⟩) = tableOf arr n * 0x400 + 0x3C0 + ty / 4 * 8 + tx / 4 := by
  have ha := attrAddr_toNat hn htx hty
  have hq : (0x23C0 + n * 0x400 + ty / 4 * 8 + tx / 4 - 0x2000) / 0x400 = n := by omega
  rw [ntIndex_eq_tableOf arr (by omega), ha, hq]
  omega

end Cell

theorem and_two_eq (n : Nat) : n &&& 2 = n / 2 % 2 * 2 := by
  rw [← Nat.pow_one 2, Nat.and_two_pow, Nat.toNat_testBit]

/-- The position of a tile's selector in its selector byte (R279). -/
theorem selShift_eq (ty tx : Nat) : ((ty &&& 2) <<< 1) ||| (tx &&& 2) = ty / 2 % 2 * 4 + tx / 2 % 2 * 2 := by
  have hbits : ∀ a < 2, ∀ b < 2, (a * 2) <<< 1 ||| b * 2 = a * 4 + b * 2 := by decide
  rw [and_two_eq, and_two_eq]
  exact hbits _ (Nat.mod_lt _ (by decide)) _ (Nat.mod_lt _ (by decide))

/-- The field of a selector byte (R279). -/
theorem selField_eq (a ty tx : Nat) :
    a >>> (((ty &&& 2) <<< 1) ||| (tx &&& 2)) &&& 3 = a / 2 ^ (ty / 2 % 2 * 4 + tx / 2 % 2 * 2) % 4 := by
  rw [selShift_eq, Nat.shiftRight_eq_div_pow]
  exact Nat.and_two_pow_sub_one_eq_mod _ 2

theorem tableOf_lt (arr : Arrangement) (q : Nat) : tableOf arr q < 2 := by
  unfold tableOf
  split <;> decide

theorem bgColumn_lt (s : State) (x : Nat) : (bgColumn s x).1 < 32 ∧ (bgColumn s x).2 < 2 := by
  simp only [bgColumn]
  omega

theorem bgRow_lt (s : State) (y : Nat) : (bgRow s y).1 < 32 ∧ (bgRow s y).2 < 2 := by
  simp only [bgRow]
  split <;> simp only <;> omega

theorem cellCoords_eq (s : State) {x y : Nat} (hx : x < 256) (hy : y < 240) :
    cellCoords s ((x + s.scrollX.toNat % 8) / 8) ((y + s.scrollY.toNat % 8) / 8) =
      ⟨2 * (bgRow s y).2 + (bgColumn s x).2, (bgColumn s x).1, (bgRow s y).1⟩ := by
  rw [cellCoords, cellCol_eq_bgColumn s hx, cellRow_eq_bgRow s hy]

/-- What the background pass leaves at a pixel, in closed form. -/
theorem cellColour_eq_bgPixelColour {c : NesRom} {pat : List Byte} (hpat : IsPatterns c pat) (s : State) {x y : Nat}
    (hx : x < 256) (hy : y < 240) :
    cellColour c s pat (cellCoords s ((x + s.scrollX.toNat % 8) / 8) ((y + s.scrollY.toNat % 8) / 8))
      ((y + s.scrollY.toNat % 8) % 8) ((x + s.scrollX.toNat % 8) % 8) = bgPixelColour c s x y := by
  obtain ⟨htx, hh⟩ := bgColumn_lt s x
  obtain ⟨hty, hv⟩ := bgRow_lt s y
  have hrow : (y + s.scrollY.toNat % 8) % 8 = (s.scrollY.toNat + y) % 8 := by omega
  have hcol : (x + s.scrollX.toNat % 8) % 8 = (s.scrollX.toNat + x) % 8 := by omega
  have htable : ctrlBgTable s.ctrl = s.ctrl.toNat / 16 % 2 := getLsbD_toNat s.ctrl 4
  rw [cellCoords_eq s hx hy, hrow, hcol]
  simp only [cellColour, cellTile, cellSel, bgColour, bgPixelColour, selField_eq, htable]
  rw [ntIndex_tileAddr (by omega) htx hty, ntIndex_attrAddr (by omega) htx hty,
    tilePixel_eq_tileIndex hpat _ (by omega) (BitVec.isLt _) (by omega), paletteColour_eq_colour]

/-! The sprites (R283 to R295). -/

theorem findSome?_congr {α β : Type} {l : List α} {f g : α → Option β} (h : ∀ a ∈ l, f a = g a) :
    l.findSome? f = l.findSome? g := by
  induction l with
  | nil => rfl
  | cons a l ih =>
    rw [List.findSome?_cons, List.findSome?_cons, h a List.mem_cons_self, ih fun b hb => h b (List.mem_cons_of_mem a hb)]

theorem mem_candidates {s : State} {line i : Nat} (h : i ∈ candidates s line) : i < 64 ∧ onLine s line i = true := by
  obtain ⟨hmem, hon⟩ := List.mem_filter.mp (List.mem_of_mem_take h)
  exact ⟨List.mem_range.mp hmem, hon⟩

theorem objPalette_eq (a : Byte) : objPalette a = a.toNat % 4 := by
  rw [objPalette, BitVec.extractLsb'_toNat]
  rfl

theorem spriteHeight_of_tall {s : State} (h : s.ctrl.getLsbD 5 = true) : spriteHeight s = 16 := if_pos h

theorem spriteHeight_of_not_tall {s : State} (h : ¬s.ctrl.getLsbD 5 = true) : spriteHeight s = 8 := if_neg h

/-- The row of a sprite after its vertical flip (R290). -/
def flippedRow (h : Nat) (attr : Byte) (r : Nat) : Nat := if attr.getLsbD 7 = true then h - 1 - r else r

theorem flippedRow_lt {h r : Nat} (hr : r < h) (attr : Byte) : flippedRow h attr r < h := by
  unfold flippedRow
  split <;> omega

/-- An 8x16 sprite selects its table by its tile number's lowest bit, an 8x8 one by the control register (R290). -/
theorem tilePixel_spriteTile {c : NesRom} {pat : List Byte} (hpat : IsPatterns c pat) (s : State) (tile attr : Byte) {r : Nat}
    (hr : r < spriteHeight s) (col : Nat) :
    tilePixel pat (spriteTile s.ctrl (spriteHeight s) tile attr r).table (spriteTile s.ctrl (spriteHeight s) tile attr r).tile
        (spriteTile s.ctrl (spriteHeight s) tile attr r).row col =
      if s.ctrl.getLsbD 5 = true then
        tileIndex c (tile.toNat % 2) (tile.toNat / 2 * 2 + flippedRow (spriteHeight s) attr r / 8)
          (flippedRow (spriteHeight s) attr r % 8) col
      else tileIndex c (s.ctrl.toNat / 8 % 2) tile.toNat (flippedRow (spriteHeight s) attr r) col := by
  have htile := tile.isLt
  have hrow := flippedRow_lt hr attr
  by_cases htall : s.ctrl.getLsbD 5 = true
  · rw [spriteHeight_of_tall htall] at hrow ⊢
    have hhalf : (if flippedRow 16 attr r ≥ 8 then 1 else 0) = flippedRow 16 attr r / 8 := by split <;> omega
    have hsel : spriteTile s.ctrl 16 tile attr r =
        ⟨tile.toNat % 2, tile.toNat / 2 * 2 + flippedRow 16 attr r / 8, flippedRow 16 attr r % 8⟩ := by
      rw [← hhalf]
      rfl
    rw [if_pos htall, hsel]
    dsimp only
    rw [tilePixel_eq_tileIndex hpat _ (by omega) (by omega) (by omega)]
  · rw [spriteHeight_of_not_tall htall] at hrow ⊢
    have hsel : spriteTile s.ctrl 8 tile attr r = ⟨ctrlSpriteTable s.ctrl, tile.toNat, flippedRow 8 attr r⟩ := rfl
    have htable : ctrlSpriteTable s.ctrl = s.ctrl.toNat / 8 % 2 := getLsbD_toNat s.ctrl 3
    rw [if_neg htall, hsel]
    dsimp only
    rw [htable, tilePixel_eq_tileIndex hpat _ (by omega) htile hrow]

section Sprite

variable {c : NesRom} {pat : List Byte} (hpat : IsPatterns c pat) (s : State) {i x y : Nat}

/-- An entry has no pixel outside its eight columns (R292, R294). -/
theorem spriteIndexAt_of_outside
    (h : ¬((s.oamByte (4 * i + 3)).toNat ≤ x ∧ x < (s.oamByte (4 * i + 3)).toNat + 8)) : spriteIndexAt c s i x y = 0 :=
  if_pos (by omega)

include hpat

/-- The colour index of a candidate's pixel, in closed form (R290, R291). -/
theorem spriteIndex_eq_spriteIndexAt (hon : onLine s (y - 1) i = true) (hl : (s.oamByte (4 * i + 3)).toNat ≤ x)
    (hr : x < (s.oamByte (4 * i + 3)).toNat + 8) :
    spriteIndex s (spriteHeight s) pat (candidateOn s (y - 1) i) (x - (s.oamByte (4 * i + 3)).toNat) =
      spriteIndexAt c s i x y := by
  obtain ⟨hlo, hhi⟩ := (onLine_iff s (y - 1) i).mp hon
  have hin : ¬(x < (s.oamByte (4 * i + 3)).toNat ∨ (s.oamByte (4 * i + 3)).toNat + 8 ≤ x) := by omega
  simp only [spriteIndex, candidateOn]
  rw [tilePixel_spriteTile hpat s _ _ (by omega), spriteIndexAt, if_neg hin]
  rfl

/-- The colour a candidate puts on a column, in closed form (R292, R293). -/
theorem candidateColour_eq (hon : onLine s (y - 1) i = true) :
    candidateColour s (spriteHeight s) pat x (candidateOn s (y - 1) i) =
      if spriteIndexAt c s i x y = 0 then none
      else some (colour s (0x10 + 4 * ((s.oamByte (4 * i + 2)).toNat % 4) + spriteIndexAt c s i x y)) := by
  by_cases hin : (s.oamByte (4 * i + 3)).toNat ≤ x ∧ x < (s.oamByte (4 * i + 3)).toNat + 8
  · simp only [candidateColour, spColour, paletteColour_eq_colour, objPalette_eq,
      show (candidateOn s (y - 1) i).i = i from rfl, spriteIndex_eq_spriteIndexAt hpat s hon hin.1 hin.2, hin, true_and, ite_not]
  · rw [spriteIndexAt_of_outside s hin, if_pos rfl, candidateColour, if_neg fun h => hin ⟨h.1, h.2.1⟩]

/-- What the foreground pass puts on a pixel, in closed form (R285, R286, R295). -/
theorem findSome?_lineCandidates :
    (lineCandidates s (spriteHeight s) y).findSome? (candidateColour s (spriteHeight s) pat x) = spritePixelColour c s x y := by
  rw [lineCandidates, spritePixelColour]
  split
  · rfl
  · rw [spriteEval_eq, List.findSome?_map]
    exact findSome?_congr fun i hi => candidateColour_eq hpat s (mem_candidates hi).2

end Sprite

/-! The picture (R270, R300, R301). -/

/-- Every pixel of a frame: the sprites' colour where there is one, else the background's. -/
theorem pixel_renderFrame (c : NesRom) (s : State) {x y : Nat} (hx : x < 256) (hy : y < 240) :
    pixel (renderFrame c s) x y = (spritePixelColour c s x y).getD (bgPixelColour c s x y) := by
  have hpat := isPatterns_patFetch c { s with vblank := false }
  rw [← findSome?_lineCandidates hpat s, ← cellColour_eq_bgPixelColour hpat s hx hy]
  exact fbPixel_renderFb c s _ hx hy

/-- Settles O49: the pixel the passes leave is the pixel of the closed form. -/
theorem renderedPixelInClosedForm : Obligations.RenderedPixelInClosedForm :=
  fun s c hc => ⟨_, exec_render hc, fun _ _ hx hy => pixel_renderFrame c s hx hy⟩

/-! What the picture depends on (R300). -/

theorem tileIndex_lt (c : NesRom) (table tile row col : Nat) : tileIndex c table tile row col < 4 := by
  simp only [tileIndex]
  omega

theorem spriteIndexAt_lt (c : NesRom) (s : State) (i x y : Nat) : spriteIndexAt c s i x y < 4 := by
  simp only [spriteIndexAt]
  split
  · decide
  · split <;> exact tileIndex_lt ..

/-- The palette cell of a background pixel lies in the background half of the store (R281). -/
theorem bgPaletteCell_lt {sel ci : Nat} (hsel : sel < 4) (hci : ci < 4) : (if ci = 0 then 0 else 4 * sel + ci) < 32 := by
  split <;> omega

/-- Two states and their cartridges agree on everything RENDER looks at (R300 (a)). -/
structure SamePictureState (s s' : State) (c c' : NesRom) : Prop where
  ctrl : s.ctrl = s'.ctrl
  scrollX : s.scrollX = s'.scrollX
  scrollY : s.scrollY = s'.scrollY
  base : s.t.extractLsb' 10 2 = s'.t.extractLsb' 10 2
  nt : ∀ i, i < 2048 → s.ntByte i = s'.ntByte i
  pal : ∀ i, i < 32 → s.palByte i = s'.palByte i
  oam : ∀ i, i < 256 → s.oamByte i = s'.oamByte i
  chr : c.chr = c'.chr
  arrangement : c.nametableArrangement = c'.nametableArrangement

namespace SamePictureState

variable {s s' : State} {c c' : NesRom} (h : SamePictureState s s' c c')
include h

theorem colour_eq {i : Nat} (hi : i < 32) : colour s i = colour s' i := by rw [colour, colour, h.pal i hi]

theorem tileIndex_eq (table tile row col : Nat) : tileIndex c table tile row col = tileIndex c' table tile row col := by
  rw [tileIndex, tileIndex, h.chr]

/-- The two states have the same base nametable, as a number. -/
theorem base_toNat : s.t.toNat / 0x400 % 4 = s'.t.toNat / 0x400 % 4 := by
  have hbase := congrArg BitVec.toNat h.base
  rw [BitVec.extractLsb'_toNat, BitVec.extractLsb'_toNat, Nat.shiftRight_eq_div_pow, Nat.shiftRight_eq_div_pow] at hbase
  exact hbase

theorem bgColumn_eq (x : Nat) : bgColumn s x = bgColumn s' x := by
  have hbase := h.base_toNat
  simp only [bgColumn, h.scrollX, Prod.mk.injEq, true_and]
  omega

theorem bgRow_eq (y : Nat) : bgRow s y = bgRow s' y := by
  have hbase := h.base_toNat
  simp only [bgRow, h.scrollY]
  split <;> simp only [Prod.mk.injEq, true_and] <;> omega

theorem bgPixelColour_eq (x y : Nat) : bgPixelColour c s x y = bgPixelColour c' s' x y := by
  obtain ⟨htx, -⟩ := bgColumn_lt s' x
  obtain ⟨hty, -⟩ := bgRow_lt s' y
  have hq := tableOf_lt c'.nametableArrangement (2 * (bgRow s' y).2 + (bgColumn s' x).2)
  simp only [bgPixelColour, h.bgColumn_eq, h.bgRow_eq, h.arrangement, h.ctrl, h.scrollX, h.scrollY, h.tileIndex_eq]
  rw [h.nt _ (by omega), h.nt _ (by omega)]
  exact h.colour_eq (bgPaletteCell_lt (Nat.mod_lt _ (by decide)) (tileIndex_lt ..))

theorem spriteHeight_eq : spriteHeight s = spriteHeight s' := by rw [spriteHeight, spriteHeight, h.ctrl]

theorem onLine_eq (line : Nat) {i : Nat} (hi : i < 64) : onLine s line i = onLine s' line i := by
  rw [onLine, onLine, h.oam _ (by omega), h.spriteHeight_eq]

theorem candidates_eq (line : Nat) : candidates s line = candidates s' line := by
  rw [candidates, candidates, List.filter_congr fun i hi => h.onLine_eq line (List.mem_range.mp hi)]

theorem spriteIndexAt_eq {i : Nat} (hi : i < 64) (x y : Nat) : spriteIndexAt c s i x y = spriteIndexAt c' s' i x y := by
  simp only [spriteIndexAt, h.oam (4 * i) (by omega), h.oam (4 * i + 1) (by omega), h.oam (4 * i + 2) (by omega),
    h.oam (4 * i + 3) (by omega), h.ctrl, h.spriteHeight_eq, h.tileIndex_eq]

theorem spritePixelColour_eq (x y : Nat) : spritePixelColour c s x y = spritePixelColour c' s' x y := by
  rw [spritePixelColour, spritePixelColour, h.candidates_eq]
  split
  · rfl
  · refine findSome?_congr fun i hi => ?_
    obtain ⟨hi, -⟩ := mem_candidates hi
    rw [h.spriteIndexAt_eq hi, h.oam (4 * i + 2) (by omega)]
    have hci := spriteIndexAt_lt c' s' i x y
    rw [h.colour_eq (by omega)]

/-- The picture is the same: each of its pixels is, whatever the old picture was (R282). -/
theorem renderFrame_fb_eq : (renderFrame c s).fb = (renderFrame c' s').fb := by
  refine framebuffer_ext fun x y hx hy => ?_
  change pixel (renderFrame c s) x y = pixel (renderFrame c' s') x y
  rw [pixel_renderFrame c s hx hy, pixel_renderFrame c' s' hx hy, h.spritePixelColour_eq, h.bgPixelColour_eq]

end SamePictureState

/-- Settles O50: each pixel's closed form reads the named fields alone. -/
theorem pictureDependsOnlyOnNamedState : Obligations.PictureDependsOnlyOnNamedState := by
  intro s s' c c' hc hc' hctrl hx hy hbase hnt hpal hoam hchr harr
  have h : SamePictureState s s' c c' := ⟨hctrl, hx, hy, hbase, hnt, hpal, hoam, hchr, harr⟩
  exact ⟨_, _, exec_render hc, exec_render hc', h.renderFrame_fb_eq⟩

/-- RENDER changes nothing that RENDER looks at. -/
theorem samePictureState_renderFrame (c : NesRom) (s : State) : SamePictureState (renderFrame c s) s c c where
  ctrl := rfl
  scrollX := rfl
  scrollY := rfl
  base := rfl
  nt _ _ := rfl
  pal _ _ := rfl
  oam _ _ := rfl
  chr := rfl
  arrangement := rfl

/-- Settles O51: the second RENDER sees the state the first saw, and what a RENDER logs depends on CHR and the control register
alone. -/
theorem renderTwiceSamePicture : Obligations.RenderTwiceSamePicture := by
  intro s c hc
  have hnmi : (fetchEvents c).count .nmiRequest = 0 := by
    rw [← count_frameEnds _ rfl, frameEnds_fetchEvents, List.count_nil]
  have hpresented : (fetchEvents c).count .framePresented = 0 := by
    rw [← count_frameEnds _ rfl, frameEnds_fetchEvents, List.count_nil]
  refine ⟨renderFrame c s, renderFrame c (renderFrame c s), fetchEvents c ++ frameEvents s, exec_render hc, exec_render hc,
    (samePictureState_renderFrame c s).renderFrame_fb_eq, rfl, rfl, renderFrame_trace c s, renderFrame_trace c _, ?_, ?_, ?_⟩
  · rw [List.count_append, hnmi, count_nmiRequest_frameEvents, Nat.zero_add]
  · rw [List.count_append, hpresented, count_framePresented_frameEvents]
  · rw [frameEvents, ← List.append_assoc, List.getLast?_append]
    rfl

/-! The worked example (R301). -/

/-- The state of the worked example: the fields its picture depends on. -/
structure WorkedExample (s : State) (c : NesRom) : Prop where
  solidTile : ∀ k, k < 8 → c.chr.getD (16 + k) 0 = 0xFF ∧ c.chr.getD (24 + k) 0 = 0x00
  emptyTile : ∀ k, k < 16 → c.chr.getD k 0 = 0x00
  backdrop : s.palByte 0x00 = 0x0F
  spriteColour : s.palByte 0x11 = 0x16
  nt : ∀ i, i < 2048 → s.ntByte i = 0x00
  ctrl : s.ctrl = 0x00
  top : s.oamByte 0 = 0x10
  tile : s.oamByte 1 = 0x01
  attr : s.oamByte 2 = 0x00
  left : s.oamByte 3 = 0x20
  hidden : ∀ i, 1 ≤ i → i < 64 → s.oamByte (4 * i) = 0xFF

namespace WorkedExample

variable {s : State} {c : NesRom} (h : WorkedExample s c)
include h

/-- The background's tile is colour 0 everywhere. -/
theorem tileIndex_empty {row : Nat} (hr : row < 8) (col : Nat) : tileIndex c 0 0 row col = 0 := by
  have hlo : c.chr.getD (0 * 0x1000 + 0 * 16 + row) 0 = 0x00 := h.emptyTile _ (by omega)
  have hhi : c.chr.getD (0 * 0x1000 + 0 * 16 + row + 8) 0 = 0x00 := h.emptyTile _ (by omega)
  have hbit : (0x00 : Byte).toNat / 2 ^ (7 - col) % 2 = 0 := congrArg (· % 2) (Nat.zero_div _)
  simp only [tileIndex]
  rw [hlo, hhi, hbit]

/-- The sprite's tile is colour 1 everywhere. -/
theorem tileIndex_solid {row col : Nat} (hr : row < 8) (hc : col < 8) : tileIndex c 0 1 row col = 1 := by
  obtain ⟨hplane0, hplane1⟩ := h.solidTile row hr
  have hlo : c.chr.getD (0 * 0x1000 + 1 * 16 + row) 0 = 0xFF := hplane0
  have hhi : c.chr.getD (0 * 0x1000 + 1 * 16 + row + 8) 0 = 0x00 := by
    rw [← hplane1]
    congr 1
    omega
  have hbits : ∀ k < 8, (0xFF : Byte).toNat / 2 ^ (7 - k) % 2 + 2 * ((0x00 : Byte).toNat / 2 ^ (7 - k) % 2) = 1 := by decide
  simp only [tileIndex]
  rw [hlo, hhi]
  exact hbits col hc

/-- The background shows the empty tile everywhere. -/
theorem bgPixelColour_eq (x y : Nat) : bgPixelColour c s x y = Config.masterPalette 0x0F := by
  obtain ⟨htx, -⟩ := bgColumn_lt s x
  obtain ⟨hty, -⟩ := bgRow_lt s y
  have hq := tableOf_lt c.nametableArrangement (2 * (bgRow s y).2 + (bgColumn s x).2)
  have htable : s.ctrl.toNat / 16 % 2 = 0 := congrArg (fun b : Byte => b.toNat / 16 % 2) h.ctrl
  have htile {i : Nat} (hi : i < 2048) : (s.ntByte i).toNat = 0 := congrArg BitVec.toNat (h.nt i hi)
  simp only [bgPixelColour, htable]
  rw [htile (by omega), if_pos (h.tileIndex_empty (Nat.mod_lt _ (by decide)) _), colour, h.backdrop]
  rfl

theorem spriteHeight_eq : spriteHeight s = 8 := by
  rw [spriteHeight, h.ctrl]
  rfl

/-- Only entry 0 is ever in range, on the eight lines from its Y on. -/
theorem candidates_eq {line : Nat} (hline : line < 240) :
    candidates s line = if 16 ≤ line ∧ line < 24 then [0] else [] := by
  have hothers : ((List.range 63).map Nat.succ).filter (onLine s line) = [] := by
    rw [List.filter_eq_nil_iff, List.forall_mem_map]
    intro i hi hon
    have hy := ((onLine_iff s line _).mp hon).1
    rw [h.hidden _ (Nat.succ_pos i) (by have := List.mem_range.mp hi; omega)] at hy
    exact absurd (Nat.lt_of_le_of_lt hy hline) (by decide)
  have hfirst : onLine s line 0 = true ↔ 16 ≤ line ∧ line < 24 := by
    rw [onLine_iff, Nat.mul_zero, h.top, h.spriteHeight_eq]
    rfl
  rw [candidates, List.range_succ_eq_map]
  by_cases hin : 16 ≤ line ∧ line < 24
  · rw [if_pos hin, List.filter_cons_of_pos (hfirst.mpr hin), hothers]
    rfl
  · rw [if_neg hin, List.filter_cons_of_neg (mt hfirst.mp hin), hothers]
    rfl

/-- Entry 0 is opaque in its eight columns, on its eight lines. -/
theorem spriteIndexAt_eq {x y : Nat} (hy : y - 1 - 0x10 < 8) :
    spriteIndexAt c s 0 x y = if 0x20 ≤ x ∧ x ≤ 0x27 then 1 else 0 := by
  have htall : ¬s.ctrl.getLsbD 5 = true := by rw [h.ctrl]; decide
  have htable : s.ctrl.toNat / 8 % 2 = 0 := congrArg (fun b : Byte => b.toNat / 8 % 2) h.ctrl
  simp only [spriteIndexAt, Nat.mul_zero, Nat.zero_add, h.top, h.tile, h.attr, h.left, htable, if_neg htall]
  have hleft : (0x20 : Byte).toNat = 0x20 := rfl
  by_cases hx : 0x20 ≤ x ∧ x ≤ 0x27
  · rw [if_neg (by omega), if_pos hx]
    exact h.tileIndex_solid hy (by omega : x - 0x20 < 8)
  · rw [if_pos (by omega), if_neg hx]

theorem spritePixelColour_eq {x y : Nat} (hy : y < 240) :
    spritePixelColour c s x y =
      if 0x20 ≤ x ∧ x ≤ 0x27 ∧ 17 ≤ y ∧ y ≤ 24 then some (Config.masterPalette 0x16) else none := by
  rw [spritePixelColour]
  by_cases hline : 17 ≤ y ∧ y ≤ 24
  · rw [if_neg (by omega), h.candidates_eq (by omega), if_pos (by omega), List.findSome?_singleton,
      h.spriteIndexAt_eq (by omega)]
    by_cases hx : 0x20 ≤ x ∧ x ≤ 0x27
    · have hcell : 0x10 + 4 * ((s.oamByte (4 * 0 + 2)).toNat % 4) + 1 = 0x11 :=
        congrArg (fun b : Byte => 0x10 + 4 * (b.toNat % 4) + 1) h.attr
      rw [if_pos hx, if_neg Nat.one_ne_zero, if_pos ⟨hx.1, hx.2, hline⟩, hcell, colour, h.spriteColour]
      rfl
    · rw [if_neg hx, if_pos rfl, if_neg (by omega)]
  · rw [if_neg (by omega : ¬(0x20 ≤ x ∧ x ≤ 0x27 ∧ 17 ≤ y ∧ y ≤ 24))]
    split
    · rfl
    · rw [h.candidates_eq (by omega), if_neg (by omega), List.findSome?_nil]

end WorkedExample

/-- Settles O54: the closed form of each pixel in the example's state. -/
theorem renderWorkedExample : Obligations.RenderWorkedExample := by
  intro s c hc _ hsolid hempty hbackdrop hcolour hnt hctrl _ _ htop htile hattr hleft hhidden
  have h : WorkedExample s c := ⟨hsolid, hempty, hbackdrop, hcolour, hnt, hctrl, htop, htile, hattr, hleft, hhidden⟩
  refine ⟨_, exec_render hc, fun x y hx hy => ?_⟩
  rw [pixel_renderFrame c s hx hy, h.spritePixelColour_eq hy, h.bgPixelColour_eq]
  split <;> rfl

end Sys2Proof.Machine
end

section
/-! PROOFS, family 60_exceptions. How many events a bus transaction appends (R178, R335). -/

namespace Sys2Proof

theorem portInstr_ne_render (l w : Bool) {n : Nat} (hn : n < 8) (x : Access) (d : Byte) : portInstr l w n x d ≠ .render := by
  interval_cases n <;> cases w <;> cases l <;> nofun

/-- RENDER is a host operation: no bus transaction selects it. -/
theorem busInstr_ne_render (l w : Bool) (x : Access) (d : Byte) : busInstr l w x d ≠ .render := by
  intro h
  obtain ⟨-, -, h'⟩ | ⟨-, h' | h' | ⟨-, -, h'⟩⟩ := busInstr_cases l w x d
  · exact portInstr_ne_render l w (Nat.mod_lt _ (by decide)) x d (h'.symm.trans h)
  · rw [h] at h'
    cases h'
  · cases h'.symm.trans h
  · cases h'.symm.trans h

end Sys2Proof

namespace Sys2Proof.Machine

theorem emit_trace_length (s : State) (e : Event) : (s.emit e).trace.length = s.trace.length + 1 := List.length_append

theorem romRead_trace_length_le (region : List Byte) (k : Nat) (x : Access) (s : State) :
    (romRead region k x s).2.trace.length ≤ s.trace.length + 1 := by
  unfold romRead
  split
  · exact Nat.le_succ _
  · exact (emit_trace_length s _).le

theorem vramRead_trace_length_le (c : NesRom) (p : PAddr) (s : State) :
    (vramRead c p s).2.trace.length ≤ s.trace.length + 1 := by
  obtain ⟨es, hes, h⟩ := vramRead_state c p s
  rw [h, List.length_append]
  exact Nat.add_le_add_left hes _

theorem vramWrite_trace_length_le (c : NesRom) (p : PAddr) (d : Byte) (s : State) :
    (vramWrite c p d s).trace.length ≤ s.trace.length + 1 := by
  obtain ⟨i, h⟩ | h | ⟨e, h⟩ := vramWrite_cases c p d s <;> rw [h]
  · exact Nat.le_succ _
  · exact Nat.le_succ _
  · exact (emit_trace_length s e).le

theorem busReads_trace_length_le (c : NesRom) (o : Origin) (as : List Addr) (s : State) :
    (busReads c o as s).2.trace.length ≤ s.trace.length + as.length := by
  obtain ⟨w, vb, v, n, es, hes, h⟩ := busReads_state c s o as
  rw [h, List.length_append]
  exact Nat.add_le_add_left hes _

theorem execInsert_trace_length_le (image : List Byte) (s : State) :
    Ends (fun t => t.trace.length ≤ s.trace.length + 1) (execInsert image s) := by
  obtain ⟨c, h⟩ | ⟨kind, info, h⟩ := execInsert_cases image s <;> rw [h]
  · exact .next (Nat.le_succ _)
  · exact .next (emit_trace_length s _).le

/-- An operation other than RENDER and OAM-DMA makes at most one access, and an access appends at most one event (R335). -/
theorem exec_trace_length_le {i : Instr} (hr : i ≠ .render) (hd : ∀ x d, i ≠ .wrOamdma x d) (s : State) :
    Ends (fun t => t.trace.length ≤ s.trace.length + 1) (exec i s) := by
  cases i with
  | render => exact absurd rfl hr
  | wrOamdma x d => exact absurd rfl (hd x d)
  | reset => exact .next (Nat.le_succ _)
  | insert image => exact execInsert_trace_length_le image s
  | rdRam | rdCtrl | rdMask | rdStatus | rdOamaddr | rdOamdata | rdScroll | rdAddr | rdApustat | rdJoy1 | rdJoy2
  | vrdPal | vrdNtm | vrdNt => exact .withCart fun _ => .next (Nat.le_succ _)
  | prdChr | rdPrg | vrdPat => exact .withCart fun _ => .next (romRead_trace_length_le _ _ _ s)
  | rdOpen | rdCartlo => exact .withCart fun _ => .next (emit_trace_length s _).le
  | rdData => exact .withCart fun c => .next (vramRead_trace_length_le c _ s)
  | wrRam | wrCtrl | wrMask | wrStatus | wrOamaddr | wrOamdata | wrScrollX | wrScrollY | wrAddrHi | wrAddrLo
  | vwrPal | vwrNtm | vwrNt | ackview => exact .withCart fun _ => .next (Nat.le_succ _)
  | pwrChr | wrApu | wrJoy1 | wrJoy2 | wrOpen | wrCartlo | wrPrg | vwrPat =>
    exact .withCart fun _ => .next (emit_trace_length s _).le
  | wrData => exact .withCart fun c => .next (vramWrite_trace_length_le c _ _ s)

theorem dmaSources_length (d : Byte) : (dmaSources d).length = 256 := (List.length_map _).trans List.length_range

/-- An OAM-DMA appends at most one event for each of its 256 reads (R178, R335). -/
theorem exec_wrOamdma_trace_length_le (x : Access) (d : Byte) (s : State) :
    Ends (fun t => t.trace.length ≤ s.trace.length + 256) (exec (.wrOamdma x d) s) :=
  .withCart fun c => .next (dmaSources_length d ▸ busReads_trace_length_le c .cpu (dmaSources d) s)

/-- Settles O58: a transaction selects neither RENDER nor, off a write to `0x4014`, OAM-DMA. -/
theorem oneDiagnosticPerTransaction : Obligations.OneDiagnosticPerTransaction := by
  intro s t rest c o a d hc
  refine ⟨fun h => ?_, fun h => ?_⟩
  · rw [step_read hc] at h
    exact exec_trace_length_le (busInstr_ne_render _ _ _ _)
      (fun _ _ hi => Bool.false_ne_true (busInstr_eq_wrOamdma hi).2) { s with requests := rest } t h
  · rw [step_write hc] at h
    by_cases ha : a = 0x4014
    · subst ha
      rw [busInstr_oamdma _ true d (congrArg BitVec.toNat (translate_below c o (by decide)))] at h
      exact exec_wrOamdma_trace_length_le _ d { s with requests := rest } t h
    · rw [if_neg ha]
      exact exec_trace_length_le (busInstr_ne_render _ _ _ _)
        (fun _ _ hi => ha (eq_of_translate_eq_4014 (busInstr_eq_wrOamdma hi).1)) { s with requests := rest } t h

end Sys2Proof.Machine
end

section
/-! PROOFS, family 70_reset_and_hazards. RESET and the power-on state (R360, R361). -/

namespace Sys2Proof.Machine

/-- RESET makes the power-on state afresh, over the next draw, and keeps the cartridge, the trace and the host's two lists (R360). -/
theorem exec_reset (s : State) :
    exec .reset s = .next { State.reset with
      cart := s.cart, trace := s.trace, powerOn := s.draws, draws := s.draws + 1, replies := s.replies, requests := s.requests } :=
  rfl

/-- Settles O1: what RESET keeps or draws is what the statement sets by hand, and at power-on there is nothing to keep. -/
theorem powerOnIsResetOfAnyState : Obligations.PowerOnIsResetOfAnyState :=
  ⟨fun s => ⟨_, exec_reset s, rfl⟩, exec_reset State.reset⟩

section
variable {s : State}

/-! A memory nothing was written to shows the power-on draw (R50), and a cleared framebuffer is 0 at every index. -/

theorem ramByte_of_ram_nil (h : s.ram = []) (i : Nat) : s.ramByte i = Config.powerOnRam s.powerOn i := by
  rw [State.ramByte, h, Memory.read?_nil, Option.getD_none]

theorem ntByte_of_nt_nil (h : s.nt = []) (i : Nat) : s.ntByte i = Config.powerOnNt s.powerOn i := by
  rw [State.ntByte, h, Memory.read?_nil, Option.getD_none]

theorem palByte_of_pal_nil (h : s.pal = []) (i : Nat) : s.palByte i = Config.powerOnPal s.powerOn i := by
  rw [State.palByte, h, Memory.read?_nil, Option.getD_none]

theorem oamByte_of_oam_nil (h : s.oam = []) (i : Nat) : s.oamByte i = Config.powerOnOam s.powerOn i := by
  rw [State.oamByte, h, Memory.read?_nil, Option.getD_none]

theorem fbByte_of_fb_replicate (h : s.fb = Vector.replicate fbSize 0x00) (i : Nat) : s.fbByte i = 0x00 := by
  rw [State.fbByte, h, Vector.getElem?_replicate]
  split <;> rfl

end

/-- Settles O2: the registers stand in RESET's state, its four memories are empty and its framebuffer is cleared. -/
theorem resetSetsEveryFieldButCartAndTrace : Obligations.ResetSetsEveryFieldButCartAndTrace := by
  refine ⟨fun _ => rfl, fun s => ⟨_, exec_reset s, rfl, rfl, rfl, rfl, rfl, rfl, rfl, rfl, rfl, rfl, ?fb, ?ram, ?nt, ?pal, ?oam,
    rfl, rfl, rfl, rfl⟩⟩
  case fb => exact fun i _ => fbByte_of_fb_replicate rfl i
  case ram => exact fun i _ => ramByte_of_ram_nil rfl i
  case nt => exact fun i _ => ntByte_of_nt_nil rfl i
  case pal => exact fun i _ => palByte_of_pal_nil rfl i
  case oam => exact fun i _ => oamByte_of_oam_nil rfl i

end Sys2Proof.Machine
end
